-- ==== Sys2Proof/Word.lean ====
section
/-! DEFINITION. The two widths of the machine: 32-bit registers (R4, `REG_WIDTH`) and 8-bit memory bytes (R40). -/

namespace Sys2Proof

/-- A register value, a latched operand or a command word: 32 bits (R4, R14, R57). -/
abbrev Word := BitVec 32

/-- One byte of memory (R40). -/
abbrev Byte := BitVec 8

end Sys2Proof
end

