-- ==== Sys2Proof/Config.lean ====
section
/-! DEFINITION. What an implementation fixes (R4) and the values the spec leaves free. A constant declared `opaque` has no
body that a proof can see: a claim about it holds for every value. -/

namespace Sys2Proof.Config

/-- `REG_BLOCK`, the size in bytes of the register window (R4, R14). -/
def regBlock : Nat := 256

/-- `FOURCC_DXT3`, the bytes `D X T 3` read little-endian (R4, R24). PRESUMED by the spec itself (I1), log 3. -/
def fourccDxt3 : Word := 0x33545844#32

/-- The highest memory address of the reset state, `MEM_SIZE - 1`. DESIGN CHOICE, log 1: `MEM_SIZE` is OPEN (R4);
every statement of this package is about an arbitrary `memTop`. -/
def resetMemTop : Word := 0xFFFFFFFF#32

/-- `FS_MAGIC` of the reset state. DESIGN CHOICE, log 2: `FS_MAGIC` is OPEN and the spec gives no number (R4, N3, U14);
every statement of this package is about an arbitrary `fsMagic`, and none rests on this value. -/
def resetFsMagic : Word := 0#32

/-- What a byte of memory that nothing has written reads as: unspecified (R40, R158, U2). A free value of each
address, log 4. -/
opaque powerUpByte : Nat → Byte

/-- The free draws of R51 (a host read of the output region while a command runs) and of R157 (a reset while a
command runs): `true` stands for the value before acceptance, `false` for the final value. Log 7, log 8. -/
opaque raceDraw : Nat → Bool

end Sys2Proof.Config
end

