-- ==== Sys2Proof/Syntax.lean ====
section
/-! DEFINITION. The syntax of the machine: the commands (R62), the fields of a command word (R57), the registers (R14)
and the lines of a host program (R66). -/

namespace Sys2Proof

/-- The commands, one constructor per row of the opcode table (R62). A command has no operand in its word (R64). -/
inductive Instr where
  /-- `DEC.STD24` (R86). -/
  | decStd24
  /-- `DEC.STD32` (R87). -/
  | decStd32
  /-- `DEC.FS32` (R88). -/
  | decFs32
  /-- `DEC.DXT1` (R102). -/
  | decDxt1
  /-- `DEC.DXT1A` (R103). -/
  | decDxt1a
  /-- `DEC.DXT3` (R105). -/
  | decDxt3
  /-- `DEC.DXT5` (R108). -/
  | decDxt5
  /-- `DEC.STD16` (R89). -/
  | decStd16
  /-- `DEC.MASK16` (R93). -/
  | decMask16
  /-- `DEC.UNKNOWN` (R92). -/
  | decUnknown
  /-- `ENC.STD24` (R90). -/
  | encStd24
  /-- `ENC.STD32` (R124). -/
  | encStd32
  /-- `ENC.FS32` (R91). -/
  | encFs32
  /-- `ENC.DXT1` (R124). -/
  | encDxt1
  /-- `ENC.DXT1A` (R124). -/
  | encDxt1a
  /-- `ENC.DXT3` (R122). -/
  | encDxt3
  /-- `ENC.DXT5` (R124). -/
  | encDxt5
  /-- `ENC.STD16` (R124). -/
  | encStd16
  /-- `ENC.MASK16` (R124). -/
  | encMask16
  /-- `ENC.UNKNOWN` (R124). -/
  | encUnknown
  /-- `EMIT.STD24` (R135). -/
  | emitStd24
  /-- `EMIT.STD32` (R138). -/
  | emitStd32
  /-- `EMIT.FS32` (R136). -/
  | emitFs32
  /-- `EMIT.DXT1` (R138). -/
  | emitDxt1
  /-- `EMIT.DXT1A` (R138). -/
  | emitDxt1a
  /-- `EMIT.DXT3` (R137). -/
  | emitDxt3
  /-- `EMIT.DXT5` (R138). -/
  | emitDxt5
  /-- `EMIT.STD16` (R138). -/
  | emitStd16
  /-- `EMIT.MASK16` (R138). -/
  | emitMask16
  /-- `EMIT.UNKNOWN` (R138). -/
  | emitUnknown
  deriving DecidableEq, Repr

/-- The operation of a command, field `OP` (R59). -/
inductive Op where
  /-- Raw buffer to canonical raster. -/
  | dec
  /-- Canonical raster to raw buffer. -/
  | enc
  /-- Container header and payload. -/
  | emit
  deriving DecidableEq, Repr

/-- The pixel format tag, field `FMT` (R58). -/
inductive PixelFormat where
  | std24 | std32 | fsFull32 | dxt1 | dxt1Alpha | dxt3 | dxt5 | std16 | masked16 | unknown
  deriving DecidableEq, Repr

/-- The three fields of a command word (R57). -/
structure CmdFields where
  /-- `RSV`, bits 31:8. -/
  rsv : BitVec 24
  /-- `FMT`, bits 7:4. -/
  fmt : BitVec 4
  /-- `OP`, bits 3:0. -/
  op : BitVec 4
  deriving DecidableEq, Repr

/-- Why a word names no command (R60, R61). -/
inductive DecodeReject where
  /-- A reserved bit of 31:8 is set (R60, U8). -/
  | reservedBits
  /-- `OP` is 0 or 4 to 15 (R59, U9). -/
  | reservedOp
  /-- `FMT` is 10 to 15 (R58, U9). -/
  | reservedFmt
  deriving DecidableEq, Repr

/-- The registers of the window, in offset order (R14). -/
inductive Reg where
  | cmd | status | srcAddr | srcLen | dstAddr | dstCap | dstLen | width | height | maskR | maskG | maskB | maskA
  | fourccDxt3 | fsMagic
  deriving DecidableEq, Repr

/-- One line of a host program (R66), or the platform's reset (R156). -/
inductive HostLine where
  /-- A write of `value` to the register window: an access of `size` bytes at `offset`. `W REG, value` is the
  access with size 4 at the register's offset. -/
  | regWrite (size offset : Nat) (value : Word)
  /-- A read of the register window: an access of `size` bytes at `offset`. `R REG` has size 4. -/
  | regRead (size offset : Nat)
  /-- `MW addr, byte byte …`. -/
  | memWrite (addr : Nat) (bytes : List Byte)
  /-- `MR addr, count`. -/
  | memRead (addr count : Nat)
  /-- `WAIT`: repeat `R STATUS` until `BUSY` reads 0 (R67). -/
  | wait
  /-- The platform asserts reset (R156). -/
  | reset
  deriving DecidableEq, Repr

end Sys2Proof
end

