-- ==== Sys2Proof/WellFormed.lean ====
section
/-! DEFINITION. The static checks. An `Instr` has no operand (R64), so every `Instr` is well formed; what can be ill
formed is a raw command word (R58 to R60) and a register access (R15). -/

namespace Sys2Proof

/-- `RSV` must be 0 (R60). -/
def CmdFields.rsvOk (f : CmdFields) : Bool := f.rsv == 0

/-- `OP` is `DEC`, `ENC` or `EMIT` (R59). -/
def CmdFields.opOk (f : CmdFields) : Bool := decide (1 ≤ f.op.toNat) && decide (f.op.toNat ≤ 3)

/-- `FMT` is one of the ten formats (R58). -/
def CmdFields.fmtOk (f : CmdFields) : Bool := decide (f.fmt.toNat ≤ 9)

/-- The word names a command (R61). -/
def CmdFields.wf (f : CmdFields) : Bool := f.rsvOk && f.opOk && f.fmtOk

/-- The defined access to the register window: 32 bits, at a multiple of 4, inside the window (R15). -/
def regAccessOk (size offset : Nat) : Bool :=
  size == 4 && offset % 4 == 0 && decide (offset < Config.regBlock)

/-- A host line is well formed when its register access is the defined one (R15). -/
def HostLine.wf : HostLine → Bool
  | .regWrite size offset _ => regAccessOk size offset
  | .regRead size offset => regAccessOk size offset
  | .memWrite _ _ => true
  | .memRead _ _ => true
  | .wait => true
  | .reset => true

end Sys2Proof
end

