-- ==== Sys2Proof/Decode.lean ====
section
/-! DEFINITION. The decoder of a command word by its fields (R57 to R61), total and rejecting by name; after it the
encoder, written from the word table of R62. -/

namespace Sys2Proof

/-- The fields of a command word (R57). -/
def cmdFields (v : Word) : CmdFields :=
  { rsv := v.extractLsb' 8 24, fmt := v.extractLsb' 4 4, op := v.extractLsb' 0 4 }

/-- The `OP` field (R59). -/
def Op.ofCode (c : BitVec 4) : Option Op :=
  match c.toNat with
  | 1 => some .dec
  | 2 => some .enc
  | 3 => some .emit
  | _ => none

/-- The `FMT` field (R58). -/
def PixelFormat.ofCode (c : BitVec 4) : Option PixelFormat :=
  match c.toNat with
  | 0 => some .std24
  | 1 => some .std32
  | 2 => some .fsFull32
  | 3 => some .dxt1
  | 4 => some .dxt1Alpha
  | 5 => some .dxt3
  | 6 => some .dxt5
  | 7 => some .std16
  | 8 => some .masked16
  | 9 => some .unknown
  | _ => none

/-- The command `OP.FMT` (R61, R62). -/
def instrOf : Op → PixelFormat → Instr
  | .dec, .std24 => .decStd24
  | .dec, .std32 => .decStd32
  | .dec, .fsFull32 => .decFs32
  | .dec, .dxt1 => .decDxt1
  | .dec, .dxt1Alpha => .decDxt1a
  | .dec, .dxt3 => .decDxt3
  | .dec, .dxt5 => .decDxt5
  | .dec, .std16 => .decStd16
  | .dec, .masked16 => .decMask16
  | .dec, .unknown => .decUnknown
  | .enc, .std24 => .encStd24
  | .enc, .std32 => .encStd32
  | .enc, .fsFull32 => .encFs32
  | .enc, .dxt1 => .encDxt1
  | .enc, .dxt1Alpha => .encDxt1a
  | .enc, .dxt3 => .encDxt3
  | .enc, .dxt5 => .encDxt5
  | .enc, .std16 => .encStd16
  | .enc, .masked16 => .encMask16
  | .enc, .unknown => .encUnknown
  | .emit, .std24 => .emitStd24
  | .emit, .std32 => .emitStd32
  | .emit, .fsFull32 => .emitFs32
  | .emit, .dxt1 => .emitDxt1
  | .emit, .dxt1Alpha => .emitDxt1a
  | .emit, .dxt3 => .emitDxt3
  | .emit, .dxt5 => .emitDxt5
  | .emit, .std16 => .emitStd16
  | .emit, .masked16 => .emitMask16
  | .emit, .unknown => .emitUnknown

/-- The decode of a command word (R61). -/
def decode (v : Word) : Except DecodeReject Instr :=
  let f := cmdFields v
  if f.rsv ≠ 0 then .error .reservedBits
  else
    match Op.ofCode f.op with
    | none => .error .reservedOp
    | some o =>
      match PixelFormat.ofCode f.fmt with
      | none => .error .reservedFmt
      | some p => .ok (instrOf o p)

/-- The operation of a command (R59, R62). -/
def Instr.op : Instr → Op
  | .decStd24 | .decStd32 | .decFs32 | .decDxt1 | .decDxt1a | .decDxt3 | .decDxt5 | .decStd16 | .decMask16
  | .decUnknown => .dec
  | .encStd24 | .encStd32 | .encFs32 | .encDxt1 | .encDxt1a | .encDxt3 | .encDxt5 | .encStd16 | .encMask16
  | .encUnknown => .enc
  | .emitStd24 | .emitStd32 | .emitFs32 | .emitDxt1 | .emitDxt1a | .emitDxt3 | .emitDxt5 | .emitStd16 | .emitMask16
  | .emitUnknown => .emit

/-- The format of a command (R58, R62). -/
def Instr.fmt : Instr → PixelFormat
  | .decStd24 | .encStd24 | .emitStd24 => .std24
  | .decStd32 | .encStd32 | .emitStd32 => .std32
  | .decFs32 | .encFs32 | .emitFs32 => .fsFull32
  | .decDxt1 | .encDxt1 | .emitDxt1 => .dxt1
  | .decDxt1a | .encDxt1a | .emitDxt1a => .dxt1Alpha
  | .decDxt3 | .encDxt3 | .emitDxt3 => .dxt3
  | .decDxt5 | .encDxt5 | .emitDxt5 => .dxt5
  | .decStd16 | .encStd16 | .emitStd16 => .std16
  | .decMask16 | .encMask16 | .emitMask16 => .masked16
  | .decUnknown | .encUnknown | .emitUnknown => .unknown

/-- The command word of each command, from the table of R62. -/
def encode : Instr → Word
  | .decStd24 => 0x00000001#32
  | .decStd32 => 0x00000011#32
  | .decFs32 => 0x00000021#32
  | .decDxt1 => 0x00000031#32
  | .decDxt1a => 0x00000041#32
  | .decDxt3 => 0x00000051#32
  | .decDxt5 => 0x00000061#32
  | .decStd16 => 0x00000071#32
  | .decMask16 => 0x00000081#32
  | .decUnknown => 0x00000091#32
  | .encStd24 => 0x00000002#32
  | .encStd32 => 0x00000012#32
  | .encFs32 => 0x00000022#32
  | .encDxt1 => 0x00000032#32
  | .encDxt1a => 0x00000042#32
  | .encDxt3 => 0x00000052#32
  | .encDxt5 => 0x00000062#32
  | .encStd16 => 0x00000072#32
  | .encMask16 => 0x00000082#32
  | .encUnknown => 0x00000092#32
  | .emitStd24 => 0x00000003#32
  | .emitStd32 => 0x00000013#32
  | .emitFs32 => 0x00000023#32
  | .emitDxt1 => 0x00000033#32
  | .emitDxt1a => 0x00000043#32
  | .emitDxt3 => 0x00000053#32
  | .emitDxt5 => 0x00000063#32
  | .emitStd16 => 0x00000073#32
  | .emitMask16 => 0x00000083#32
  | .emitUnknown => 0x00000093#32

/-- The command word whose low `nbits` bits are `w`, every higher bit 0. A command is one 32-bit word (R57). -/
def tableWord (nbits w : Nat) : Word := BitVec.ofNat 32 (w % 2 ^ nbits)

/-- The command the decoder reads from a row of the opcode table whose bits are `w`. A command is one 32-bit word
written to `CMD` (R57), so a longer bit string with a bit above 31 set is none. -/
def decodeTableWord (nbits w : Nat) : Option Instr :=
  if w % 2 ^ nbits < 2 ^ 32 then (decode (tableWord nbits w)).toOption else none

end Sys2Proof
end

