-- ==== Sys2Proof/Machine/State.lean ====
section
/-! DEFINITION. The state of the machine as plain data (R14, R27, R31, R34, R38, R40), the reasons a step can stop, and the
state after reset (R38). -/

namespace Sys2Proof.Machine

/-- The byte memory `M` (R40): (address, byte) pairs at strictly rising addresses, one for each byte that has been
written. An unlisted address has no written byte (R40: "a model gives them no value until something writes them"). -/
abbrev Memory := List Host.Cell

/-- The copy `L` latched at acceptance (R31). -/
structure Latched where
  cmd : Word
  srcAddr : Word
  srcLen : Word
  dstAddr : Word
  dstCap : Word
  width : Word
  height : Word
  maskR : Word
  maskG : Word
  maskB : Word
  maskA : Word
  deriving DecidableEq, Repr

/-- The engine phase (R34). The latched copy exists exactly while a command runs (R31, R157). -/
inductive Phase where
  | idle
  | busy (l : Latched)
  deriving DecidableEq, Repr

/-- The parameters that R4 makes an argument of the model. No step changes them. -/
structure Params where
  /-- `MEM_SIZE - 1`: the highest memory address, so `1 ≤ MEM_SIZE ≤ 2^32` (R4). -/
  memTop : Word
  /-- `FS_MAGIC` (R4, R25). -/
  fsMagic : Word
  /-- `FOURCC_DXT3` (R4, R24). -/
  fourccDxt3 : Word
  deriving DecidableEq, Repr

/-- The errors of R142, in the order of their codes. -/
inductive CmdError where
  /-- Code 1, parser only: never raised by the CORE (R142). -/
  | badSignature
  /-- Code 2, parser only: never raised by the CORE (R142). -/
  | unsupportedHeader
  /-- Code 3 (R73). -/
  | dimensionMismatch
  /-- Code 4 (R73). -/
  | invalidDimensions
  /-- Code 5, parser only: never raised by the CORE (R142). -/
  | incompatibleExtension
  /-- Code 6 (R76). -/
  | truncatedData
  /-- Code 7 (R124, R138). -/
  | unsupportedTarget
  /-- Code 8 (R92). -/
  | unsupportedFormat
  /-- Code 9 (R61). -/
  | illegalCommand
  /-- Code 10 (R77). -/
  | destTooSmall
  /-- Code 11 (R78). -/
  | bufferOverlap
  /-- Code 12 (R75). -/
  | addressRange
  deriving DecidableEq, Repr

/-- What one host read returned (R66: "the result is shown as"). -/
inductive Observation where
  /-- `R`: the offset read and the value returned. -/
  | reg (offset : Nat) (value : Word)
  /-- `MR`: the address read and the bytes returned. -/
  | mem (addr : Nat) (bytes : List Byte)
  deriving DecidableEq, Repr

/-- The whole state. The first group is the register window of R14 (`BUSY` is the phase; the read-only constants are
in `params`), then the engine phase with `L`, the memory and the parameters; the last group is the model's own. -/
structure State where
  /-- `CMD` (R26). -/
  cmd : Word
  /-- `SRC_ADDR` (R19). -/
  srcAddr : Word
  /-- `SRC_LEN` (R20). -/
  srcLen : Word
  /-- `DST_ADDR` (R21). -/
  dstAddr : Word
  /-- `DST_CAP` (R22). -/
  dstCap : Word
  /-- `DST_LEN` (R33). -/
  dstLen : Word
  /-- `WIDTH` (R18). -/
  width : Word
  /-- `HEIGHT` (R18). -/
  height : Word
  /-- `MASK_R` (R23). -/
  maskR : Word
  /-- `MASK_G` (R23). -/
  maskG : Word
  /-- `MASK_B` (R23). -/
  maskB : Word
  /-- `MASK_A` (R23). -/
  maskA : Word
  /-- `STATUS.DONE` (R29). -/
  done : Bool
  /-- `STATUS.ERR` (R30). -/
  err : Bool
  /-- `STATUS.DROP` (R32). -/
  drop : Bool
  /-- `STATUS.ERRCODE` (R30). -/
  errCode : BitVec 4
  /-- The engine phase, `STATUS.BUSY`, with the latched copy `L` (R28, R31, R34). -/
  phase : Phase
  /-- The byte memory (R40). -/
  mem : Memory
  /-- The parameters (R4); `FOURCC_DXT3` and `FS_MAGIC` are read-only registers (R24, R25). -/
  params : Params
  /-- The model's own: the host lines still to run (R66), log 5. -/
  host : List HostLine
  /-- The model's own: what the host's reads returned, newest first (R66), log 5. -/
  seen : List Observation
  /-- The model's own: for each command accepted from now on, how many host lines run before it completes
  (R167, U17: free and finite), log 6. -/
  delays : List Nat
  /-- The model's own: how many host lines still run before the running command completes, log 6. -/
  hold : Nat
  /-- The model's own: how many free draws of R51 and R157 have been made, log 7. -/
  draws : Nat
  deriving DecidableEq, Repr

/-- The reasons a step stops with a fault. No command raises one: every error of a command is a completion (R140). -/
inductive Fault where
  /-- Raised by the host lines `MW` and `MR` when a byte lies at or above `MEM_SIZE`: no such address exists (R40, R48),
  log 12. A line with no byte never raises it (log 22). Safe: the model stops where the spec gives the access no effect. -/
  | hostAddressOutsideMemory
  deriving DecidableEq, Repr

/-- The reasons a step is refused. No command raises one. -/
inductive Refusal where
  /-- Raised by an arm of `exec` whose instruction has no meaning yet. Safe. -/
  | notModelled (mnemonic : String)
  /-- Raised by a register access that is not 32-bit at a multiple of 4 inside the window: "a model refuses it"
  (R15, R169, U3). Safe. -/
  | undefinedRegisterAccess
  /-- Raised by a host write to a byte of the running command's input or output region: "a model gives such a host
  write no step" (R52, R163, U6). Safe. -/
  | hostWriteToRunningRegion
  deriving DecidableEq, Repr

/-- The machine right after reset (R38). `params.memTop` is log 1, `params.fsMagic` log 2; the model's own fields are
DESIGN CHOICES of log 5, log 6 and log 7. Memory lists no byte: nothing has been written (R40). -/
def State.reset : State where
  cmd := 0
  srcAddr := 0
  srcLen := 0
  dstAddr := 0
  dstCap := 0
  dstLen := 0
  width := 0
  height := 0
  maskR := 0
  maskG := 0
  maskB := 0
  maskA := 0
  done := false
  err := false
  drop := false
  errCode := 0
  phase := .idle
  mem := []
  params := { memTop := Config.resetMemTop, fsMagic := Config.resetFsMagic, fourccDxt3 := Config.fourccDxt3 }
  host := []
  seen := []
  delays := []
  hold := 0
  draws := 0

end Sys2Proof.Machine
end

