-- ==== Sys2Proof/Machine/Operands.lean ====
section
/-! DEFINITION. The operands of a command: the latched parameters as integers (R11, R64), the sizes of its regions (R74,
R132), the texel and block mappings (R79, R80), and the arithmetic primitives of R5, R6, R10 and R85. -/

namespace Sys2Proof.Machine

/-! ## Primitives (R5, R6) -/

/-- `v[hi:lo]`, the integer formed by bits `hi` down to `lo` (R5). -/
def bitField (v hi lo : Nat) : Nat := v / 2 ^ lo % 2 ^ (hi + 1 - lo)

/-- `clamp(v) = min(max(v, 0), 255)` (R6). -/
def clamp (v : Int) : Nat := (min (max v 0) 255).toNat

/-- The byte that stores an integer component: its low 8 bits, `u8` (R6). -/
def u8 (v : Nat) : Byte := BitVec.ofNat 8 v

/-- `expand5(v) = div(v * 255, 31)` (R85). -/
def expand5 (v : Nat) : Nat := v * 255 / 31

/-- `expand6(v) = div(v * 255, 63)` (R85). -/
def expand6 (v : Nat) : Nat := v * 255 / 63

/-- The bits of the result of the integer square root from bit `k - 1` down to 0, given the higher bits `r` (R118). -/
def isqrtBits : Nat → Nat → Nat → Nat
  | 0, _, r => r
  | k + 1, n, r => if (r + 2 ^ k) * (r + 2 ^ k) ≤ n then isqrtBits k n (r + 2 ^ k) else isqrtBits k n r

/-- The integer square root, `trunc(sqrt(n))` (R6, R118). -/
def isqrt (n : Nat) : Nat := isqrtBits (Nat.log2 n / 2 + 1) n 0

/-- Fields of `w` bits packed into one integer, the first in the lowest bits: `sum over t of x_t << (w*t)`
(R110, R121). -/
def packFields (w : Nat) : List Nat → Nat
  | [] => 0
  | x :: xs => x + 2 ^ w * packFields w xs

/-- The `n` bytes of an integer, low byte first (R7, R42). -/
def leBytes : Nat → Nat → List Byte
  | 0, _ => []
  | n + 1, v => u8 v :: leBytes n (v / 256)

/-! ## Texels (R10) -/

/-- The three colour components, each an integer in `0 .. 255` (R10, R99). -/
structure Colour where
  b : Nat
  g : Nat
  r : Nat
  deriving DecidableEq, Repr

/-- A texel of the canonical raster, `(B, G, R, A)` (R10). -/
structure Texel where
  b : Nat
  g : Nat
  r : Nat
  a : Nat
  deriving DecidableEq, Repr

/-- The four bytes of a texel in memory order (R10, R43). -/
def Texel.bytes (t : Texel) : List Byte := [u8 t.b, u8 t.g, u8 t.r, u8 t.a]

/-! ## The latched parameters as integers (R11, R64) -/

/-- `W` (R11). -/
def Latched.W (l : Latched) : Nat := l.width.toNat

/-- `H` (R11). -/
def Latched.H (l : Latched) : Nat := l.height.toNat

/-- `N = W * H`, the number of texels (R11). -/
def Latched.N (l : Latched) : Nat := l.W * l.H

/-- `NB = N / 16`, the number of blocks (R11). -/
def Latched.NB (l : Latched) : Nat := l.N / 16

/-- `src = L.SRC_ADDR`. -/
def Latched.src (l : Latched) : Nat := l.srcAddr.toNat

/-- `dst = L.DST_ADDR`. -/
def Latched.dst (l : Latched) : Nat := l.dstAddr.toNat

/-! ## Sizes (R74, R132) -/

/-- `rawsize(f)` for `n` texels (R74). `Unknown` has no raw layout (R58): no size is asked of it. -/
def rawSize (n : Nat) : PixelFormat → Nat
  | .std24 => 3 * n
  | .std32 => 4 * n
  | .fsFull32 => 4 * n
  | .dxt1 => n / 2
  | .dxt1Alpha => n / 2
  | .dxt3 => n
  | .dxt5 => n
  | .std16 => 2 * n
  | .masked16 => 2 * n
  | .unknown => 0

/-- `hdr(f)` (R132). Only the three targets have a header: no size is asked of another format. -/
def hdrSize : PixelFormat → Nat
  | .std24 => 54
  | .fsFull32 => 74
  | .dxt3 => 74
  | _ => 0

/-- The three supported target formats (R72). -/
def isTarget : PixelFormat → Bool
  | .std24 => true
  | .fsFull32 => true
  | .dxt3 => true
  | _ => false

/-- `need`, the bytes a command reads, for `n` texels (R74). -/
def needOf (i : Instr) (n : Nat) : Nat :=
  match i.op with
  | .dec => rawSize n i.fmt
  | .enc => 4 * n
  | .emit => rawSize n i.fmt

/-- `out`, the bytes a command writes, for `n` texels (R74). -/
def outOf (i : Instr) (n : Nat) : Nat :=
  match i.op with
  | .dec => 4 * n
  | .enc => rawSize n i.fmt
  | .emit => hdrSize i.fmt + rawSize n i.fmt

/-! ## The block mapping (R80) -/

/-- `n(b, t)`: the linear index of texel `t` of block `b` in an image `w` texels wide (R80). -/
def texelIndex (w b t : Nat) : Nat :=
  (4 * (b / (w / 4)) + t / 4) * w + (4 * (b % (w / 4)) + t % 4)

/-- The block that holds raster texel `n`: the inverse of R80. -/
def blockOf (w n : Nat) : Nat := n / w / 4 * (w / 4) + n % w / 4

/-- The place within its block of raster texel `n`: the inverse of R80. -/
def texelInBlock (w n : Nat) : Nat := n / w % 4 * 4 + n % w % 4

end Sys2Proof.Machine
end

