-- ==== Sys2Proof/Machine/Flags.lean ====
section
/-! DEFINITION. The `STATUS` register: its layout (R27), the error codes (R142) and the three events that write its fields:
acceptance, successful completion and error completion (R28 to R30, R32, R68, R83, R146). -/

namespace Sys2Proof.Machine

/-- The numeric codes of `STATUS.ERRCODE` (R142). Code 0 is no error. -/
def CmdError.code : CmdError → BitVec 4
  | .badSignature => 1
  | .unsupportedHeader => 2
  | .dimensionMismatch => 3
  | .invalidDimensions => 4
  | .incompatibleExtension => 5
  | .truncatedData => 6
  | .unsupportedTarget => 7
  | .unsupportedFormat => 8
  | .illegalCommand => 9
  | .destTooSmall => 10
  | .bufferOverlap => 11
  | .addressRange => 12

/-- `STATUS.BUSY`: equal to the engine phase (R34). -/
def State.busy (s : State) : Bool :=
  match s.phase with
  | .idle => false
  | .busy _ => true

/-- The 32-bit value of `STATUS` (R27): from the top, reserved 31:12, `ERRCODE`, reserved 7:4, `DROP`, `ERR`, `DONE`,
`BUSY`. -/
def State.statusWord (s : State) : Word :=
  0#20 ++ s.errCode ++ 0#4 ++ BitVec.ofBool s.drop ++ BitVec.ofBool s.err ++ BitVec.ofBool s.done ++ BitVec.ofBool s.busy

/-- What acceptance does to `STATUS` but for `BUSY`: `DONE`, `ERR`, `ERRCODE` and `DROP` are cleared (R68). -/
def State.clearStatus (s : State) : State :=
  { s with done := false, err := false, errCode := 0, drop := false }

/-- What a successful completion does to `STATUS`: `BUSY` 0, `DONE` 1. `ERR` and `ERRCODE` stay as they are, `DROP`
keeps its value (R83). -/
def State.statusDone (s : State) : State :=
  { s with phase := .idle, done := true }

/-- What an error completion does to `STATUS`: `BUSY` 0, `DONE` 1, `ERR` 1, `ERRCODE` the code; `DROP` keeps its value
(R146). -/
def State.statusFailed (s : State) (e : CmdError) : State :=
  { s with phase := .idle, done := true, err := true, errCode := e.code }

end Sys2Proof.Machine
end

