-- ==== Sys2Proof/Machine/Ops.lean ====
section
/-! DEFINITION. The operations every command shares: byte memory (R7, R47), acceptance and the latch (R31, R68), `Check`
(R71 to R78), the two completions (R83, R146) and the frame that joins them (R69). This hardware has no trap: the
operation an error takes is `State.failWith` (R140, R146), and what ends the error state is the next acceptance,
`State.accept` (R149). -/

namespace Sys2Proof.Machine

/-! ## Memory (R7, R40, R47) -/

/-- The canonical form of the memory list: addresses strictly rising, so one entry for each written byte. -/
def Memory.wf : Memory → Bool
  | [] => true
  | [_] => true
  | (a, _) :: (a', b') :: m => decide (a < a') && Memory.wf ((a', b') :: m)

/-- The byte written last at an address, none where nothing has been written. -/
def Memory.byte? : Memory → Nat → Option Byte
  | [], _ => none
  | (a, b) :: m, x => if a = x then some b else Memory.byte? m x

/-- `M[a]` (R7): the byte last written (R47); where nothing has been written, a free value of the address
(R40, R158), log 4. -/
def Memory.read (m : Memory) (a : Nat) : Byte :=
  match m.byte? a with
  | some b => b
  | none => Config.powerUpByte a

/-- `M[x] <- v` (R7). -/
def Memory.write : Memory → Nat → Byte → Memory
  | [], x, v => [(x, v)]
  | (a, b) :: m, x, v =>
    if x < a then (x, v) :: (a, b) :: m
    else if x = a then (x, v) :: m
    else (a, b) :: Memory.write m x v

/-- Consecutive bytes written from an address up. -/
def Memory.writeBytes : Memory → Nat → List Byte → Memory
  | m, _, [] => m
  | m, a, b :: bs => Memory.writeBytes (m.write a b) (a + 1) bs

/-- `MemRead(addr, n)`: a little-endian read of `n` bytes (R7). -/
def Memory.memRead (m : Memory) (a : Nat) : Nat → Nat
  | 0 => 0
  | n + 1 => (m.read a).toNat + 256 * Memory.memRead m (a + 1) n

/-- `n` consecutive bytes of memory. -/
def Memory.bytes (m : Memory) (a n : Nat) : List Byte := (List.range n).map fun k => m.read (a + k)

/-- `MEM_SIZE` (R4). -/
def State.memSize (s : State) : Nat := s.params.memTop.toNat + 1

/-! ## Acceptance (R31, R68) -/

/-- The latched copy taken when `v` is written to `CMD` (R31). -/
def State.latch (s : State) (v : Word) : Latched where
  cmd := v
  srcAddr := s.srcAddr
  srcLen := s.srcLen
  dstAddr := s.dstAddr
  dstCap := s.dstCap
  width := s.width
  height := s.height
  maskR := s.maskR
  maskG := s.maskG
  maskB := s.maskB
  maskA := s.maskA

/-- Acceptance of a command word (R68). -/
def State.accept (s : State) (v : Word) : State :=
  { s.clearStatus with cmd := v, phase := .busy (s.latch v), dstLen := 0 }

/-- The latched copy that command `i` runs with: that of the running command; in `IDLE`, the one its acceptance would
take (log 13). -/
def State.latchFor (s : State) (i : Instr) : Latched :=
  match s.phase with
  | .busy l => l
  | .idle => s.latch (encode i)

/-- The state in which command `i` starts to execute: as it stands while a command runs; in `IDLE`, after the
acceptance of its word (R68), log 13. -/
def State.start (s : State) (i : Instr) : State :=
  match s.phase with
  | .busy _ => s
  | .idle => s.accept (encode i)

/-! ## Check (R71) -/

/-- `W` is `2^k` for some `k` (R73). -/
def isPowerOfTwo (w : Nat) : Bool := (List.range 32).any fun k => w == 2 ^ k

/-- Conditions 2 and 3 of `Check` (R71). Condition 1, an illegal word, is tested where the word is decoded. -/
def checkCommand (i : Instr) : Option CmdError :=
  match i.op with
  | .dec => if i.fmt = .unknown then some .unsupportedFormat else none
  | .enc => if isTarget i.fmt then none else some .unsupportedTarget
  | .emit => if isTarget i.fmt then none else some .unsupportedTarget

/-- Conditions 4 and 5 of `Check` (R71, R73). -/
def checkDimensions (l : Latched) : Option CmdError :=
  if l.width ≠ l.height then some .dimensionMismatch
  else if l.W < 4 ∨ isPowerOfTwo l.W = false then some .invalidDimensions
  else none

/-- Conditions 6 to 9 of `Check` (R71, R75 to R78), in unbounded arithmetic (R6). -/
def checkBuffers (l : Latched) (need out memSize : Nat) : Option CmdError :=
  if l.srcLen.toNat < need then some .truncatedData
  else if l.dstCap.toNat < out then some .destTooSmall
  else if memSize < l.src + need ∨ memSize < l.dst + out then some .addressRange
  else if l.src < l.dst + out ∧ l.dst < l.src + need then some .bufferOverlap
  else none

/-- `Check(cmd, L)` of a legal command (R71): the first condition that holds. -/
def check (i : Instr) (l : Latched) (memSize : Nat) : Option CmdError :=
  match checkCommand i with
  | some e => some e
  | none =>
    match checkDimensions l with
    | some e => some e
    | none => checkBuffers l (needOf i l.N) (outOf i l.N) memSize

/-! ## Completion (R83, R146) -/

/-- Successful completion (R83). -/
def State.succeed (s : State) (out : Nat) : State :=
  { s.statusDone with dstLen := BitVec.ofNat 32 out }

/-- Error completion (R146): the one operation by which every error is taken. `DST_LEN` stays as it is, no memory and
no parameter register changes (R145). -/
def State.failWith (s : State) (e : CmdError) : State := s.statusFailed e

/-! ## Execute (R69) -/

/-- The frame of a command that performs (R69): `Check`, then the output bytes computed from the latched copy, the
parameters and memory as it stands (R53), written from `L.DST_ADDR` up, each once (R82), then completion. -/
def runCommand (i : Instr) (perform : Latched → Params → Memory → List Byte) (s : State) :
    Host.Outcome State Fault Refusal :=
  let l := s.latchFor i
  let s₁ := s.start i
  match check i l s.memSize with
  | some e => .next (s₁.failWith e)
  | none =>
    .next (State.succeed { s₁ with mem := s₁.mem.writeBytes l.dst (perform l s.params s.mem) } (outOf i l.N))

/-- The frame of a command that always raises (R62, R92, R124, R138): there is no `Perform`. -/
def raiseCommand (i : Instr) (e : CmdError) (s : State) : Host.Outcome State Fault Refusal :=
  .next ((s.start i).failWith e)

/-- The bytes of `n` texels, from texel 0 up (R79, R82). -/
def rasterBytes (n : Nat) (f : Nat → List Byte) : List Byte := (List.range n).flatMap f

end Sys2Proof.Machine
end

