-- ==== Sys2Proof/Machine/BlockDecode.lean ====
section
/-! DEFINITION. The DXT block decoder, spec/43_block_decode.md (R97 to R108). -/

namespace Sys2Proof.Machine

/-- `Expand565(c)` (R98, R99). The placement of the fields is I2. -/
def expand565 (c : Nat) : Colour where
  b := expand5 (bitField c 4 0)
  g := expand6 (bitField c 10 5)
  r := expand5 (bitField c 15 11)

/-- An opaque texel of a colour. -/
def Colour.opaqueTexel (c : Colour) : Texel := { b := c.b, g := c.g, r := c.r, a := 255 }

/-- One channel of the blend of palette entry 2: `div(2*x + y, 3)` (R100). -/
def blendThird (x y : Nat) : Nat := (2 * x + y) / 3

/-- One channel of the midpoint: `div(x + y, 2)` (R100). -/
def blendHalf (x y : Nat) : Nat := (x + y) / 2

/-- `Palette4(e0, e1)`: the entry of a 2-bit index (R100). -/
def palette4 (e0 e1 : Colour) (j : Nat) : Texel :=
  match j with
  | 0 => e0.opaqueTexel
  | 1 => e1.opaqueTexel
  | 2 => { b := blendThird e0.b e1.b, g := blendThird e0.g e1.g, r := blendThird e0.r e1.r, a := 255 }
  | _ => { b := blendThird e1.b e0.b, g := blendThird e1.g e0.g, r := blendThird e1.r e0.r, a := 255 }

/-- `Palette3(e0, e1, transparent)`: the entry of a 2-bit index (R100). -/
def palette3 (e0 e1 : Colour) (transparent : Bool) (j : Nat) : Texel :=
  match j with
  | 0 => e0.opaqueTexel
  | 1 => e1.opaqueTexel
  | 2 => { b := blendHalf e0.b e1.b, g := blendHalf e0.g e1.g, r := blendHalf e0.r e1.r, a := 255 }
  | _ => { b := 0, g := 0, r := 0, a := if transparent then 0 else 255 }

/-- The mode of a colour block (R101). -/
inductive ColourMode where
  | dxt1 | dxt1a | four
  deriving DecidableEq, Repr

/-- The palette a colour block selects (R101). -/
def colourPalette (mode : ColourMode) (c0 c1 : Nat) (j : Nat) : Texel :=
  if mode = .four ∨ c1 < c0 then palette4 (expand565 c0) (expand565 c1) j
  else palette3 (expand565 c0) (expand565 c1) (mode == .dxt1a) j

/-- Texel `t` of `ColourBlock(a, mode)` (R101). -/
def colourBlock (mode : ColourMode) (m : Memory) (a t : Nat) : Texel :=
  colourPalette mode (m.memRead a 2) (m.memRead (a + 2) 2) (bitField (m.memRead (a + 4) 4) (2 * t + 1) (2 * t))

/-- The block frame (R97): raster texel by raster texel, the texel its block gives it (R80). `bs` is the block size,
`decodeTexel m a t` texel `t` of the block at `a`. -/
def blockDecodeBytes (bs : Nat) (decodeTexel : Memory → Nat → Nat → Texel) (l : Latched) (m : Memory) : List Byte :=
  rasterBytes l.N fun n => (decodeTexel m (l.src + bs * blockOf l.W n) (texelInBlock l.W n)).bytes

/-- `Perform DEC.DXT1` (R102). -/
def performDecDxt1 (l : Latched) (_ : Params) (m : Memory) : List Byte := blockDecodeBytes 8 (colourBlock .dxt1) l m

/-- `DEC.DXT1` (R102). -/
def execDecDxt1 (s : State) : Host.Outcome State Fault Refusal := runCommand .decDxt1 performDecDxt1 s

/-- `Perform DEC.DXT1A` (R103). -/
def performDecDxt1a (l : Latched) (_ : Params) (m : Memory) : List Byte := blockDecodeBytes 8 (colourBlock .dxt1a) l m

/-- `DEC.DXT1A` (R103). -/
def execDecDxt1a (s : State) : Host.Outcome State Fault Refusal := runCommand .decDxt1a performDecDxt1a s

/-- Texel `t` of a DXT3 block (R104, R105). The nibble order is I3. -/
def dxt3Texel (m : Memory) (a t : Nat) : Texel :=
  { colourBlock .four m (a + 8) t with a := 17 * bitField (m.memRead a 8) (4 * t + 3) (4 * t) }

/-- `Perform DEC.DXT3` (R105). -/
def performDecDxt3 (l : Latched) (_ : Params) (m : Memory) : List Byte := blockDecodeBytes 16 dxt3Texel l m

/-- `DEC.DXT3` (R105). -/
def execDecDxt3 (s : State) : Host.Outcome State Fault Refusal := runCommand .decDxt3 performDecDxt3 s

/-- `AlphaPalette(a0, a1)`: the entry `Q[j]` of a 3-bit index (R106). -/
def alphaPalette (a0 a1 j : Nat) : Nat :=
  if j = 0 then a0
  else if j = 1 then a1
  else if a1 < a0 then ((8 - j) * a0 + (j - 1) * a1) / 7
  else if j ≤ 5 then ((6 - j) * a0 + (j - 1) * a1) / 5
  else if j = 6 then 0
  else 255

/-- Texel `t` of a DXT5 block (R107, R108). The index order is I4. -/
def dxt5Texel (m : Memory) (a t : Nat) : Texel :=
  { colourBlock .four m (a + 8) t with
    a := alphaPalette (m.memRead a 1) (m.memRead (a + 1) 1) (bitField (m.memRead (a + 2) 6) (3 * t + 2) (3 * t)) }

/-- `Perform DEC.DXT5` (R108). -/
def performDecDxt5 (l : Latched) (_ : Params) (m : Memory) : List Byte := blockDecodeBytes 16 dxt5Texel l m

/-- `DEC.DXT5` (R108). -/
def execDecDxt5 (s : State) : Host.Outcome State Fault Refusal := runCommand .decDxt5 performDecDxt5 s

end Sys2Proof.Machine
end

