-- ==== Sys2Proof/Machine/BlockEncode.lean ====
section
/-! DEFINITION. The DXT3 encoder, spec/44_block_encode.md (R109 to R124). The dead values of R123 are not computed. -/

namespace Sys2Proof.Machine

/-- The raster texel at linear index `n` of the input (R109). -/
def rasterTexel (m : Memory) (src n : Nat) : Texel where
  b := (m.read (src + 4 * n)).toNat
  g := (m.read (src + 4 * n + 1)).toNat
  r := (m.read (src + 4 * n + 2)).toNat
  a := (m.read (src + 4 * n + 3)).toNat

/-- The 16 texels of block `b` (R109). -/
def gather (l : Latched) (m : Memory) (b : Nat) : List Texel :=
  (List.range 16).map fun t => rasterTexel m l.src (texelIndex l.W b t)

/-- `nib_t = div(A_t + 8, 17)` (R110). -/
def alphaNibble (a : Nat) : Nat := (a + 8) / 17

/-- `A64` (R110). -/
def alphaWord (ts : List Texel) : Nat := packFields 4 (ts.map fun t => alphaNibble t.a)

/-- `avg_ch = div(sum over t of ch_t, 16)` (R111). -/
def average (ch : Texel → Nat) (ts : List Texel) : Nat := (ts.map ch).sum / 16

/-- `s_t` (R112): the sign of the red deviation, a zero deviation counted positive. -/
def redSign (avgR : Nat) (t : Texel) : Int := if avgR ≤ t.r then 1 else -1

/-- `S_ch` (R113), given the two averages. -/
def signedSum (ch : Texel → Nat) (avg avgR : Nat) (ts : List Texel) : Int :=
  (ts.map fun t => redSign avgR t * ((ch t : Int) - (avg : Int))).sum

/-- `D_ch = tdiv(tdiv(S_ch, 8), 3)` (R113). -/
def deviation (ch : Texel → Nat) (ts : List Texel) : Int :=
  ((signedSum ch (average ch ts) (average Texel.r ts) ts).tdiv 8).tdiv 3

/-- `E0` (R114). -/
def endpoint0 (ts : List Texel) : Colour where
  b := clamp ((average Texel.b ts : Int) + deviation Texel.b ts)
  g := clamp ((average Texel.g ts : Int) + deviation Texel.g ts)
  r := clamp ((average Texel.r ts : Int) + deviation Texel.r ts)

/-- `E1` (R114). -/
def endpoint1 (ts : List Texel) : Colour where
  b := clamp ((average Texel.b ts : Int) - deviation Texel.b ts)
  g := clamp ((average Texel.g ts : Int) - deviation Texel.g ts)
  r := clamp ((average Texel.r ts : Int) - deviation Texel.r ts)

/-- `Pack565(E)` (R115). -/
def pack565 (e : Colour) : Nat := (e.r / 8) <<< 11 ||| (e.g / 4) <<< 5 ||| e.b / 8

/-- `c0 = max(p0, p1)` (R116). -/
def blockColour0 (ts : List Texel) : Nat := max (pack565 (endpoint0 ts)) (pack565 (endpoint1 ts))

/-- `c1 = min(p0, p1)` (R116). -/
def blockColour1 (ts : List Texel) : Nat := min (pack565 (endpoint0 ts)) (pack565 (endpoint1 ts))

/-- The square of the difference of two components. -/
def squaredDiff (x y : Nat) : Nat := ((x : Int) - (y : Int)).natAbs * ((x : Int) - (y : Int)).natAbs

/-- `x` of R118: the squared colour distance. -/
def squaredDist (t p : Texel) : Nat := squaredDiff t.b p.b + squaredDiff t.g p.g + squaredDiff t.r p.r

/-- `dist(T, P) = trunc(10000 * sqrt(x)) = isqrt(100000000 * x)` (R118). -/
def colourDist (t p : Texel) : Nat := isqrt (100000000 * squaredDist t p)

/-- The index selection with its tie-break, from the four distances (R119). -/
def selectIndex (d : Nat → Nat) : Nat :=
  let w01 := if d 1 < d 0 then 1 else 0
  let w23 := if d 3 < d 2 then 3 else 2
  if d w23 < d w01 then w23 else w01

/-- `idx_t` (R117, R119, R120). -/
def texelIndexBits (c0 c1 : Nat) (t : Texel) : Nat :=
  if c0 = c1 then 0 else selectIndex fun j => colourDist t (palette4 (expand565 c0) (expand565 c1) j)

/-- The 16 bytes of a block with the given colours (R121). -/
def blockBytes (ts : List Texel) (c0 c1 : Nat) : List Byte :=
  leBytes 8 (alphaWord ts) ++ leBytes 2 c0 ++ leBytes 2 c1 ++ leBytes 4 (packFields 2 (ts.map (texelIndexBits c0 c1)))

/-- `EncodeBlock`: the 16 bytes of a block (R110 to R121). -/
def encodeBlock (ts : List Texel) : List Byte := blockBytes ts (blockColour0 ts) (blockColour1 ts)

/-- `Perform ENC.DXT3` (R122): the blocks in order. -/
def performEncDxt3 (l : Latched) (_ : Params) (m : Memory) : List Byte :=
  rasterBytes l.NB fun b => encodeBlock (gather l m b)

/-- `ENC.DXT3` (R122). -/
def execEncDxt3 (s : State) : Host.Outcome State Fault Refusal := runCommand .encDxt3 performEncDxt3 s

/-- `ENC.STD32` raises `UNSUPPORTED_TARGET` (R124). -/
def execEncStd32 (s : State) : Host.Outcome State Fault Refusal := raiseCommand .encStd32 .unsupportedTarget s

/-- `ENC.DXT1` raises `UNSUPPORTED_TARGET` (R124). -/
def execEncDxt1 (s : State) : Host.Outcome State Fault Refusal := raiseCommand .encDxt1 .unsupportedTarget s

/-- `ENC.DXT1A` raises `UNSUPPORTED_TARGET` (R124). -/
def execEncDxt1a (s : State) : Host.Outcome State Fault Refusal := raiseCommand .encDxt1a .unsupportedTarget s

/-- `ENC.DXT5` raises `UNSUPPORTED_TARGET` (R124). -/
def execEncDxt5 (s : State) : Host.Outcome State Fault Refusal := raiseCommand .encDxt5 .unsupportedTarget s

/-- `ENC.STD16` raises `UNSUPPORTED_TARGET` (R124). -/
def execEncStd16 (s : State) : Host.Outcome State Fault Refusal := raiseCommand .encStd16 .unsupportedTarget s

/-- `ENC.MASK16` raises `UNSUPPORTED_TARGET` (R124). -/
def execEncMask16 (s : State) : Host.Outcome State Fault Refusal := raiseCommand .encMask16 .unsupportedTarget s

/-- `ENC.UNKNOWN` raises `UNSUPPORTED_TARGET` (R124). -/
def execEncUnknown (s : State) : Host.Outcome State Fault Refusal := raiseCommand .encUnknown .unsupportedTarget s

end Sys2Proof.Machine
end

