-- ==== Sys2Proof/Machine/Mask.lean ====
section
/-! DEFINITION. The channel-mask applicator, spec/42_mask.md (R93 to R96). -/

namespace Sys2Proof.Machine

/-- The loop of R93 over the channels still to do, each a mask and its default, with the cumulative divisor `d`
(R94): the output bytes in order. -/
def maskChannels (p : Nat) : Nat → List (Nat × Nat) → List Byte
  | _, [] => []
  | d, (m, dflt) :: rest =>
    if m ≠ 0 then u8 ((p &&& m) / d) :: maskChannels p (d + m) rest
    else u8 dflt :: maskChannels p d rest

/-- The channels of R93 in order: blue, green, red default to 0, alpha to 255. -/
def maskList (l : Latched) : List (Nat × Nat) :=
  [(l.maskB.toNat, 0), (l.maskG.toNat, 0), (l.maskR.toNat, 0), (l.maskA.toNat, 255)]

/-- `Perform DEC.MASK16` (R93). -/
def performDecMask16 (l : Latched) (_ : Params) (m : Memory) : List Byte :=
  rasterBytes l.N fun n => maskChannels (m.memRead (l.src + 2 * n) 2) 1 (maskList l)

/-- `DEC.MASK16` (R93). -/
def execDecMask16 (s : State) : Host.Outcome State Fault Refusal := runCommand .decMask16 performDecMask16 s

end Sys2Proof.Machine
end

