-- ==== Sys2Proof/Machine/Serialize.lean ====
section
/-! DEFINITION. The output container serializer, spec/45_serialize.md (R125 to R138), and the parser's reading of its
output (R139). The widths of five header fields are I5. -/

namespace Sys2Proof.Machine

/-- The file header, bytes 0 to 13 (R126, R129 to R131), for a header of `hdr` bytes and a payload of `raw` bytes. -/
def fileHeader (hdr raw : Nat) : List Byte :=
  leBytes 1 0x42 ++ leBytes 1 0x4D ++ leBytes 4 (hdr + raw) ++ leBytes 4 0 ++ leBytes 4 hdr

/-- The information header, bytes 14 to 53 (R127 to R129). -/
def infoHeader (w h depth compression raw : Nat) : List Byte :=
  leBytes 4 40 ++ leBytes 4 w ++ leBytes 4 h ++ leBytes 2 1 ++ leBytes 2 depth ++ leBytes 4 compression ++
    leBytes 4 raw ++ leBytes 4 0 ++ leBytes 4 0 ++ leBytes 4 0 ++ leBytes 4 0

/-- The vendor extension record, bytes 54 to 73 (R133): magic, version 20, reserved, sub-type 4, reserved, mip count
0, reserved. -/
def extensionRecord (magic : Nat) : List Byte :=
  leBytes 4 magic ++ leBytes 4 20 ++ leBytes 1 0 ++ leBytes 1 4 ++ leBytes 4 0 ++ leBytes 2 0 ++ leBytes 4 0

/-- The payload, copied unchanged (R134). -/
def payload (l : Latched) (m : Memory) (raw : Nat) : List Byte := m.bytes l.src raw

/-- `Perform EMIT.STD24` (R125, R135). -/
def performEmitStd24 (l : Latched) (_ : Params) (m : Memory) : List Byte :=
  fileHeader 54 (3 * l.N) ++ infoHeader l.W l.H 24 0 (3 * l.N) ++ payload l m (3 * l.N)

/-- `EMIT.STD24` (R135). -/
def execEmitStd24 (s : State) : Host.Outcome State Fault Refusal := runCommand .emitStd24 performEmitStd24 s

/-- `Perform EMIT.FS32` (R125, R136). -/
def performEmitFs32 (l : Latched) (p : Params) (m : Memory) : List Byte :=
  fileHeader 74 (4 * l.N) ++ infoHeader l.W l.H 32 0 (4 * l.N) ++ extensionRecord p.fsMagic.toNat ++
    payload l m (4 * l.N)

/-- `EMIT.FS32` (R136). -/
def execEmitFs32 (s : State) : Host.Outcome State Fault Refusal := runCommand .emitFs32 performEmitFs32 s

/-- `Perform EMIT.DXT3` (R125, R137). -/
def performEmitDxt3 (l : Latched) (p : Params) (m : Memory) : List Byte :=
  fileHeader 74 l.N ++ infoHeader l.W l.H 32 p.fourccDxt3.toNat l.N ++ extensionRecord p.fsMagic.toNat ++
    payload l m l.N

/-- `EMIT.DXT3` (R137). -/
def execEmitDxt3 (s : State) : Host.Outcome State Fault Refusal := runCommand .emitDxt3 performEmitDxt3 s

/-- `EMIT.STD32` raises `UNSUPPORTED_TARGET` (R138). -/
def execEmitStd32 (s : State) : Host.Outcome State Fault Refusal := raiseCommand .emitStd32 .unsupportedTarget s

/-- `EMIT.DXT1` raises `UNSUPPORTED_TARGET` (R138). -/
def execEmitDxt1 (s : State) : Host.Outcome State Fault Refusal := raiseCommand .emitDxt1 .unsupportedTarget s

/-- `EMIT.DXT1A` raises `UNSUPPORTED_TARGET` (R138). -/
def execEmitDxt1a (s : State) : Host.Outcome State Fault Refusal := raiseCommand .emitDxt1a .unsupportedTarget s

/-- `EMIT.DXT5` raises `UNSUPPORTED_TARGET` (R138). -/
def execEmitDxt5 (s : State) : Host.Outcome State Fault Refusal := raiseCommand .emitDxt5 .unsupportedTarget s

/-- `EMIT.STD16` raises `UNSUPPORTED_TARGET` (R138). -/
def execEmitStd16 (s : State) : Host.Outcome State Fault Refusal := raiseCommand .emitStd16 .unsupportedTarget s

/-- `EMIT.MASK16` raises `UNSUPPORTED_TARGET` (R138). -/
def execEmitMask16 (s : State) : Host.Outcome State Fault Refusal := raiseCommand .emitMask16 .unsupportedTarget s

/-- `EMIT.UNKNOWN` raises `UNSUPPORTED_TARGET` (R138). -/
def execEmitUnknown (s : State) : Host.Outcome State Fault Refusal := raiseCommand .emitUnknown .unsupportedTarget s

/-! ## Agreement with the source's parser (R139)

The parser is host software (spec/00_scope.md R3) and no step runs it. R139 records what it reads from the output of an
`EMIT`, "the agreement a model can test": the definitions below are that reading. They read the 54-byte header and the
extension record alone. What they do with a container that no `EMIT` writes is the model's where the spec does not say it:
DESIGN CHOICE, log 23. -/

/-- The fields of the base header that the parser checks, at `a`: the signature, a declared size that is not 0, header
size 40, square dimensions that are a power of two from 4 up, one plane, no palette (R126, R127, R130; the checks are
quoted in the tables' last column and in 40_command_model.md R71). -/
def baseHeaderOk (m : Memory) (a : Nat) : Bool :=
  decide (m.memRead a 1 = 0x42 ∧ m.memRead (a + 1) 1 = 0x4D ∧ m.memRead (a + 2) 4 ≠ 0 ∧ m.memRead (a + 14) 4 = 40 ∧
    m.memRead (a + 18) 4 = m.memRead (a + 22) 4 ∧ 4 ≤ m.memRead (a + 18) 4 ∧ m.memRead (a + 26) 2 = 1 ∧
    m.memRead (a + 46) 4 = 0) && isPowerOfTwo (m.memRead (a + 18) 4)

/-- The format the base header names by its bit depth and compression tag (R128, R139): tag 0 is uncompressed, and the
depth chooses; the tag `FOURCC_DXT3` gives `Dxt3`, its depth "not separately checked". DESIGN CHOICE, log 23: tag 0 is
tested first, and every other tag answers none, the DXT1 and DXT5 tags too, whose numbers the spec does not give. -/
def baseFormat (p : Params) (depth tag : Nat) : Option PixelFormat :=
  if tag = 0 then
    if depth = 16 then some .std16
    else if depth = 24 then some .std24
    else if depth = 32 then some .std32
    else none
  else if tag = p.fourccDxt3.toNat then some .dxt3
  else none

/-- The format after the extension record at `a` (R133, R139, spec/90_conflicts.md C5): the magic matches and the version
is 20; `Std32` becomes `FsFull32`, its sub-type not checked; `Dxt3` needs sub-type 4. -/
def extensionFormat (p : Params) (m : Memory) (a : Nat) (f : PixelFormat) : Option PixelFormat :=
  if m.memRead a 4 = p.fsMagic.toNat ∧ m.memRead (a + 4) 4 = 20 then
    if f = .std32 then some .fsFull32
    else if f = .dxt3 ∧ m.memRead (a + 9) 1 = 4 then some .dxt3
    else none
  else none

/-- The format and the offset of the pixel data that the parser reads from the container at `a` (R139). The extension is
parsed when the current offset 54 differs from `dataOffset`; the pixel data from the current offset must not exceed the
declared size. DESIGN CHOICE, log 23: what the parser does with `dataOffset` once the extension is parsed is not said
(spec/91_not_in_source.md N21). Here it is not checked again: the pixel data starts at the current offset 74 whatever
`dataOffset` other than 54 says. On what `EMIT` writes both readings agree, since `dataOffset` is `hdr(f)` (R131). -/
def containerFormat (p : Params) (m : Memory) (a : Nat) : Option (PixelFormat × Nat) :=
  let inside (off : Nat) (f : PixelFormat) : Option (PixelFormat × Nat) :=
    if off + m.memRead (a + 34) 4 ≤ m.memRead (a + 2) 4 then some (f, off) else none
  if baseHeaderOk m a then
    match baseFormat p (m.memRead (a + 28) 2) (m.memRead (a + 30) 4) with
    | none => none
    | some f =>
      if m.memRead (a + 10) 4 = 54 then inside 54 f
      else
        match extensionFormat p m (a + 54) f with
        | none => none
        | some g => inside 74 g
  else none

end Sys2Proof.Machine
end

