-- ==== Sys2Proof/Machine/Unpack.lean ====
section
/-! DEFINITION. The bit-field unpacker, spec/41_unpack.md (R85 to R92). Each `perform…` is the output of the command, byte
by byte from `L.DST_ADDR` up. -/

namespace Sys2Proof.Machine

/-- `Perform DEC.STD24` (R86). -/
def performDecStd24 (l : Latched) (_ : Params) (m : Memory) : List Byte :=
  rasterBytes l.N fun n => [m.read (l.src + 3 * n), m.read (l.src + 3 * n + 1), m.read (l.src + 3 * n + 2), 255]

/-- `DEC.STD24` (R86). -/
def execDecStd24 (s : State) : Host.Outcome State Fault Refusal := runCommand .decStd24 performDecStd24 s

/-- `Perform DEC.STD32` (R87). -/
def performDecStd32 (l : Latched) (_ : Params) (m : Memory) : List Byte := m.bytes l.src (4 * l.N)

/-- `DEC.STD32` (R87). -/
def execDecStd32 (s : State) : Host.Outcome State Fault Refusal := runCommand .decStd32 performDecStd32 s

/-- `Perform DEC.FS32` (R88). -/
def performDecFs32 (l : Latched) (_ : Params) (m : Memory) : List Byte := m.bytes l.src (4 * l.N)

/-- `DEC.FS32` (R88). -/
def execDecFs32 (s : State) : Host.Outcome State Fault Refusal := runCommand .decFs32 performDecFs32 s

/-- The texel of a 5-5-5 word (R89). -/
def std16Texel (p : Nat) : Texel where
  b := expand5 (bitField p 4 0)
  g := expand5 (bitField p 9 5)
  r := expand5 (bitField p 14 10)
  a := 255

/-- `Perform DEC.STD16` (R89). -/
def performDecStd16 (l : Latched) (_ : Params) (m : Memory) : List Byte :=
  rasterBytes l.N fun n => (std16Texel (m.memRead (l.src + 2 * n) 2)).bytes

/-- `DEC.STD16` (R89). -/
def execDecStd16 (s : State) : Host.Outcome State Fault Refusal := runCommand .decStd16 performDecStd16 s

/-- `Perform ENC.STD24` (R90). -/
def performEncStd24 (l : Latched) (_ : Params) (m : Memory) : List Byte :=
  rasterBytes l.N fun n => [m.read (l.src + 4 * n), m.read (l.src + 4 * n + 1), m.read (l.src + 4 * n + 2)]

/-- `ENC.STD24` (R90). -/
def execEncStd24 (s : State) : Host.Outcome State Fault Refusal := runCommand .encStd24 performEncStd24 s

/-- `Perform ENC.FS32` (R91). -/
def performEncFs32 (l : Latched) (_ : Params) (m : Memory) : List Byte := m.bytes l.src (4 * l.N)

/-- `ENC.FS32` (R91). -/
def execEncFs32 (s : State) : Host.Outcome State Fault Refusal := runCommand .encFs32 performEncFs32 s

/-- `DEC.UNKNOWN` always completes with `UNSUPPORTED_FORMAT` (R92). -/
def execDecUnknown (s : State) : Host.Outcome State Fault Refusal := raiseCommand .decUnknown .unsupportedFormat s

end Sys2Proof.Machine
end

