-- ==== Sys2Proof/Machine/Dispatch.lean ====
section
/-! DEFINITION. The dispatch of a command to its meaning (R84): one arm per row of the opcode table. -/

namespace Sys2Proof.Machine

/-- The engine executes one command (R69, R84). -/
def exec (i : Instr) (s : State) : Host.Outcome State Fault Refusal :=
  match i with
  | .decStd24 => Sys2Proof.Machine.execDecStd24 s
  | .decStd32 => Sys2Proof.Machine.execDecStd32 s
  | .decFs32 => Sys2Proof.Machine.execDecFs32 s
  | .decDxt1 => Sys2Proof.Machine.execDecDxt1 s
  | .decDxt1a => Sys2Proof.Machine.execDecDxt1a s
  | .decDxt3 => Sys2Proof.Machine.execDecDxt3 s
  | .decDxt5 => Sys2Proof.Machine.execDecDxt5 s
  | .decStd16 => Sys2Proof.Machine.execDecStd16 s
  | .decMask16 => Sys2Proof.Machine.execDecMask16 s
  | .decUnknown => Sys2Proof.Machine.execDecUnknown s
  | .encStd24 => Sys2Proof.Machine.execEncStd24 s
  | .encStd32 => Sys2Proof.Machine.execEncStd32 s
  | .encFs32 => Sys2Proof.Machine.execEncFs32 s
  | .encDxt1 => Sys2Proof.Machine.execEncDxt1 s
  | .encDxt1a => Sys2Proof.Machine.execEncDxt1a s
  | .encDxt3 => Sys2Proof.Machine.execEncDxt3 s
  | .encDxt5 => Sys2Proof.Machine.execEncDxt5 s
  | .encStd16 => Sys2Proof.Machine.execEncStd16 s
  | .encMask16 => Sys2Proof.Machine.execEncMask16 s
  | .encUnknown => Sys2Proof.Machine.execEncUnknown s
  | .emitStd24 => Sys2Proof.Machine.execEmitStd24 s
  | .emitStd32 => Sys2Proof.Machine.execEmitStd32 s
  | .emitFs32 => Sys2Proof.Machine.execEmitFs32 s
  | .emitDxt1 => Sys2Proof.Machine.execEmitDxt1 s
  | .emitDxt1a => Sys2Proof.Machine.execEmitDxt1a s
  | .emitDxt3 => Sys2Proof.Machine.execEmitDxt3 s
  | .emitDxt5 => Sys2Proof.Machine.execEmitDxt5 s
  | .emitStd16 => Sys2Proof.Machine.execEmitStd16 s
  | .emitMask16 => Sys2Proof.Machine.execEmitMask16 s
  | .emitUnknown => Sys2Proof.Machine.execEmitUnknown s

end Sys2Proof.Machine
end

