-- ==== Sys2Proof/Machine/Engine.lean ====
section
/-! DEFINITION. The engine's turn (R69) and what the host can know of a running command: its regions (R49, R74) and its
final output (R51, R53). -/

namespace Sys2Proof.Machine

/-- The engine runs the latched command to its completion (R69), in one step (R81, R167). An illegal word completes with
`ILLEGAL_COMMAND`, condition 1 of `Check` (R61, R71). In `IDLE` the engine does nothing (R155, R159). -/
def engineTurn (s : State) : Host.Outcome State Fault Refusal :=
  match s.phase with
  | .idle => .next s
  | .busy l =>
    match decode l.cmd with
    | .ok i => exec i s
    | .error _ => .next (s.failWith .illegalCommand)

/-- The two regions of a command: where they start and how many bytes they hold (R49). -/
structure Regions where
  src : Nat
  need : Nat
  dst : Nat
  out : Nat
  deriving DecidableEq, Repr

/-- The address lies in the input or the output region. -/
def Regions.contains (r : Regions) (a : Nat) : Bool :=
  (decide (r.src ≤ a) && decide (a < r.src + r.need)) || (decide (r.dst ≤ a) && decide (a < r.dst + r.out))

/-- The regions of a latched command. `need` and `out` are defined once conditions 1 to 5 of `Check` have failed (R71,
R74); a command that one of these conditions ends has no region. Log 10. -/
def Latched.regions (l : Latched) : Option Regions :=
  match decode l.cmd with
  | .error _ => none
  | .ok i =>
    match checkCommand i, checkDimensions l with
    | none, none => some { src := l.src, need := needOf i l.N, dst := l.dst, out := outOf i l.N }
    | _, _ => none

/-- The regions of the running command, none in `IDLE`. -/
def State.runningRegions (s : State) : Option Regions :=
  match s.phase with
  | .idle => none
  | .busy l => l.regions

/-- Memory as the running command leaves it when it completes (R51 "its final value", R53). -/
def State.finalMem (s : State) : Memory :=
  match engineTurn s with
  | .next t => t.mem
  | .fault _ => s.mem
  | .refused _ => s.mem

/-- The output region `(dst, out)` of a running command that will pass `Check`: the only bytes a command writes
(R49, R82). A command that fails a check writes none (R145). -/
def State.runningOutput (s : State) : Option (Nat × Nat) :=
  match s.phase with
  | .idle => none
  | .busy l =>
    match decode l.cmd with
    | .error _ => none
    | .ok i => if (check i l s.memSize).isNone then some (l.dst, outOf i l.N) else none

end Sys2Proof.Machine
end

