-- ==== Sys2Proof/Machine/HostPort.lean ====
section
/-! DEFINITION. The host's actions (R66): the register window (R14 to R17, R26), the byte memory (R40, R51, R52), `WAIT`
(R67) and the platform's reset (R156 to R158). -/

namespace Sys2Proof.Machine

/-! ## The register window (R14) -/

/-- The offset of a register (R14). -/
def regOffset : Reg → Nat
  | .cmd => 0x00
  | .status => 0x04
  | .srcAddr => 0x08
  | .srcLen => 0x0C
  | .dstAddr => 0x10
  | .dstCap => 0x14
  | .dstLen => 0x18
  | .width => 0x1C
  | .height => 0x20
  | .maskR => 0x24
  | .maskG => 0x28
  | .maskB => 0x2C
  | .maskA => 0x30
  | .fourccDxt3 => 0x34
  | .fsMagic => 0x38

/-- The register at an offset; none at a reserved offset (R14, R16). -/
def regAt (offset : Nat) : Option Reg :=
  match offset with
  | 0x00 => some .cmd
  | 0x04 => some .status
  | 0x08 => some .srcAddr
  | 0x0C => some .srcLen
  | 0x10 => some .dstAddr
  | 0x14 => some .dstCap
  | 0x18 => some .dstLen
  | 0x1C => some .width
  | 0x20 => some .height
  | 0x24 => some .maskR
  | 0x28 => some .maskG
  | 0x2C => some .maskB
  | 0x30 => some .maskA
  | 0x34 => some .fourccDxt3
  | 0x38 => some .fsMagic
  | _ => none

/-- The value a read of a register returns (R14, R24 to R27). -/
def State.readReg (s : State) : Reg → Word
  | .cmd => s.cmd
  | .status => s.statusWord
  | .srcAddr => s.srcAddr
  | .srcLen => s.srcLen
  | .dstAddr => s.dstAddr
  | .dstCap => s.dstCap
  | .dstLen => s.dstLen
  | .width => s.width
  | .height => s.height
  | .maskR => s.maskR
  | .maskG => s.maskG
  | .maskB => s.maskB
  | .maskA => s.maskA
  | .fourccDxt3 => s.params.fourccDxt3
  | .fsMagic => s.params.fsMagic

/-- A 32-bit read at an offset of the window; a reserved offset reads 0 (R16). -/
def State.readOffset (s : State) (offset : Nat) : Word :=
  match regAt offset with
  | some r => s.readReg r
  | none => 0

/-- A host write to `CMD` (R26): accepted in `IDLE` (R68), dropped while `BUSY` (R32). At an acceptance the number of
host lines that run before completion is taken from `delays`, none meaning 0 (log 6). -/
def State.writeCmd (s : State) (v : Word) : State :=
  match s.phase with
  | .idle => { s.accept v with hold := s.delays.headD 0, delays := s.delays.tail }
  | .busy _ => { s with drop := true }

/-- A host write to a register: a parameter register takes the value (R18 to R23), a read-only register ignores it
(R17). -/
def State.writeReg (s : State) (r : Reg) (v : Word) : State :=
  match r with
  | .cmd => s.writeCmd v
  | .status => s
  | .srcAddr => { s with srcAddr := v }
  | .srcLen => { s with srcLen := v }
  | .dstAddr => { s with dstAddr := v }
  | .dstCap => { s with dstCap := v }
  | .dstLen => s
  | .width => { s with width := v }
  | .height => { s with height := v }
  | .maskR => { s with maskR := v }
  | .maskG => { s with maskG := v }
  | .maskB => { s with maskB := v }
  | .maskA => { s with maskA := v }
  | .fourccDxt3 => s
  | .fsMagic => s

/-- A 32-bit write at an offset of the window; a reserved offset ignores it (R16). -/
def State.writeOffset (s : State) (offset : Nat) (v : Word) : State :=
  match regAt offset with
  | some r => s.writeReg r v
  | none => s

/-- A host read adds what it returned to `seen` (R66). It changes nothing else (R30, R170). -/
def State.observe (s : State) (o : Observation) : State := { s with seen := o :: s.seen }

/-- A host write of the register window; any access but the defined one is refused (R15, R169). -/
def hostRegWrite (size offset : Nat) (v : Word) (s : State) : Host.Outcome State Fault Refusal :=
  if regAccessOk size offset then .next (s.writeOffset offset v) else .refused .undefinedRegisterAccess

/-- A host read of the register window; any access but the defined one is refused (R15, R169). -/
def hostRegRead (size offset : Nat) (s : State) : Host.Outcome State Fault Refusal :=
  if regAccessOk size offset then .next (s.observe (.reg offset (s.readOffset offset)))
  else .refused .undefinedRegisterAccess

/-! ## The byte memory (R40, R51, R52) -/

/-- A byte of the `n` bytes from `a` lies in a region of the running command. -/
def State.touchesRunning (s : State) (a n : Nat) : Bool :=
  match s.runningRegions with
  | none => false
  | some r => (List.range n).any fun k => r.contains (a + k)

/-- A byte of the `n` bytes from `a` lies at or above `MEM_SIZE` (R40, R48), log 12. Of no byte at all (`n = 0`) none
does, whatever `a` is: DESIGN CHOICE, log 22. -/
def State.outsideMemory (s : State) (a n : Nat) : Bool := decide (0 < n ∧ s.memSize < a + n)

/-- `MW`: a host write of consecutive bytes. Into a running command's regions it is refused (R52, R163); with a byte
outside memory it faults (log 12). DESIGN CHOICE, log 22: R66 is silent on a line with no byte; it writes nothing and
answers a next state at every address. -/
def hostMemWrite (a : Nat) (bs : List Byte) (s : State) : Host.Outcome State Fault Refusal :=
  if s.outsideMemory a bs.length then .fault .hostAddressOutsideMemory
  else if s.touchesRunning a bs.length then .refused .hostWriteToRunningRegion
  else .next { s with mem := s.mem.writeBytes a bs }

/-- What a host read of one byte returns (R51): in the output region of a running command the value before acceptance
or the final value, as the free draw says; elsewhere the current value. -/
def State.hostByte (s : State) (a draw : Nat) : Byte :=
  match s.runningOutput with
  | none => s.mem.read a
  | some (dst, out) =>
    if dst ≤ a ∧ a < dst + out then
      if Config.raceDraw draw then s.mem.read a else s.finalMem.read a
    else s.mem.read a

/-- `MR`: a host read of consecutive bytes, one free draw for each. With a byte outside memory it faults (log 12).
DESIGN CHOICE, log 22: R66 is silent on `n = 0`; the line reads no byte, shows the empty list and answers a next state
at every address. -/
def hostMemRead (a n : Nat) (s : State) : Host.Outcome State Fault Refusal :=
  if s.outsideMemory a n then .fault .hostAddressOutsideMemory
  else
    .next { s.observe (.mem a ((List.range n).map fun k => s.hostByte (a + k) (s.draws + k))) with
      draws := s.draws + n }

/-! ## WAIT (R67) -/

/-- One poll of `WAIT`: a read of `STATUS`; while `BUSY` reads 1 the line stays (R67). -/
def hostWait (s : State) : Host.Outcome State Fault Refusal :=
  if s.busy then .next { s.observe (.reg 0x04 s.statusWord) with host := .wait :: s.host }
  else .next (s.observe (.reg 0x04 s.statusWord))

/-! ## Reset (R156 to R158) -/

/-- The memory a reset leaves: unchanged (R158), but each byte of an abandoned command's output region holds its value
before acceptance or its final value, as a free draw for the byte says (R157). -/
def State.memAfterReset (s : State) : Memory :=
  match s.runningOutput with
  | none => s.mem
  | some (dst, out) =>
    (List.range out).foldl
      (fun m k => if Config.raceDraw (s.draws + k) then m else m.write (dst + k) (s.finalMem.read (dst + k))) s.mem

/-- The number of free draws a reset makes: one for each byte of an abandoned command's output region (R157). -/
def State.resetDraws (s : State) : Nat :=
  match s.runningOutput with
  | none => 0
  | some (_, out) => out

/-- The platform asserts reset (R156, R157): every register and the phase take the values of R38, memory as R157 and
R158 say. The parameters, and the host's own fields of the model, are not the engine's and stay. -/
def platformReset (s : State) : Host.Outcome State Fault Refusal :=
  .next
    { State.reset with
      mem := s.memAfterReset
      params := s.params
      host := s.host
      seen := s.seen
      delays := s.delays
      draws := s.draws + s.resetDraws }

/-! ## One host line -/

/-- One line of the host program (R66), already taken from `host`. -/
def hostLine (ln : HostLine) (s : State) : Host.Outcome State Fault Refusal :=
  match ln with
  | .regWrite size offset v => hostRegWrite size offset v s
  | .regRead size offset => hostRegRead size offset s
  | .memWrite a bs => hostMemWrite a bs s
  | .memRead a n => hostMemRead a n s
  | .wait => hostWait s
  | .reset => platformReset s

/-- The host's turn: its next line, nothing when it has none (R159). -/
def hostTurn (s : State) : Host.Outcome State Fault Refusal :=
  match s.host with
  | [] => .next s
  | ln :: rest => hostLine ln { s with host := rest }

/-! ## The notation of R66 and R67 -/

/-- `W REG, value` (R66). -/
def lineW (r : Reg) (v : Word) : HostLine := .regWrite 4 (regOffset r) v

/-- `R REG` (R66). -/
def lineR (r : Reg) : HostLine := .regRead 4 (regOffset r)

/-- `CMD m` becomes `W CMD, word(m)` (R67). -/
def lineCmd (i : Instr) : HostLine := lineW .cmd (encode i)

/-- `RUN m` becomes `CMD m` then `WAIT` (R67). -/
def linesRun (i : Instr) : List HostLine := [lineCmd i, .wait]

/-! ## Placing a command -/

/-- The state in which command word `v` is the one the engine executes next: in `IDLE`, its acceptance (R68); while a
command runs, the word takes that command's place in `CMD` and in the latched copy. The engine's turn comes at once. -/
def State.placeCommand (s : State) (v : Word) : State :=
  match s.phase with
  | .idle => { s.accept v with hold := 0 }
  | .busy l => { s with cmd := v, phase := .busy { l with cmd := v }, hold := 0 }

/-- One step of the system. In `IDLE` only the host can act (R155, R159). While a command runs, the host takes `hold`
more lines, if it has them, and then the engine completes the command (R167, log 6). -/
def systemStep (s : State) : Host.Outcome State Fault Refusal :=
  match s.phase with
  | .idle => hostTurn s
  | .busy _ =>
    if s.hold = 0 ∨ s.host = [] then engineTurn s
    else hostTurn { s with hold := s.hold - 1 }

end Sys2Proof.Machine
end

