-- ==== Sys2Proof/Machine/Step.lean ====
section
/-! DEFINITION. The step of the machine, and where the engine finds the command it executes next. -/

namespace Sys2Proof.Machine

/-- One step (R13, R69, R167). -/
def step (s : State) : Host.Outcome State Fault Refusal := systemStep s

/-- `s` with the command word of an opcode-table row as the one the engine executes in the very next step: the latched
`L.CMD` is where the engine decodes its command from (R69), so in `IDLE` the word is accepted (R68). Log 14. -/
def State.withFetchWord (s : State) (nbits w : Nat) : State := s.placeCommand (tableWord nbits w)

end Sys2Proof.Machine
end

