-- ==== Sys2Proof/Safety.lean ====
section
/-! DEFINITION. The terms the statements are written in: when a command passes its checks, what it leaves unchanged, what a
completion looks like, and the invariant of the machine. -/

namespace Sys2Proof.Machine

/-! ## When a supported command passes `Check` (R71, R73, R75 to R78) -/

/-- Conditions 4 and 5 of `Check` do not hold: the image is square, at least 4 wide, and a power of two wide (R73). -/
structure GoodSize (l : Latched) : Prop where
  square : l.width = l.height
  atLeastFour : 4 ≤ l.W
  powerOfTwo : ∃ k, l.W = 2 ^ k

/-- Conditions 4 to 9 of `Check` do not hold for a command that reads `need` and writes `out` bytes (R71). -/
structure Ready (need out : Nat) (l : Latched) (memSize : Nat) : Prop where
  size : GoodSize l
  longEnough : need ≤ l.srcLen.toNat
  roomEnough : out ≤ l.dstCap.toNat
  inputInside : l.src + need ≤ memSize
  outputInside : l.dst + out ≤ memSize
  apart : l.dst + out ≤ l.src ∨ l.src + need ≤ l.dst

/-! ## Frames -/

/-- The ten parameter registers of R18 to R23 and the parameters of R4 are unchanged. -/
structure ParamsKept (s t : State) : Prop where
  srcAddr : t.srcAddr = s.srcAddr
  srcLen : t.srcLen = s.srcLen
  dstAddr : t.dstAddr = s.dstAddr
  dstCap : t.dstCap = s.dstCap
  width : t.width = s.width
  height : t.height = s.height
  maskR : t.maskR = s.maskR
  maskG : t.maskG = s.maskG
  maskB : t.maskB = s.maskB
  maskA : t.maskA = s.maskA
  params : t.params = s.params

/-- The model's own fields for the host are unchanged. -/
structure HostKept (s t : State) : Prop where
  host : t.host = s.host
  seen : t.seen = s.seen
  delays : t.delays = s.delays
  hold : t.hold = s.hold
  draws : t.draws = s.draws

/-- The result registers `CMD`, `STATUS` (every field) and `DST_LEN` are unchanged. -/
structure ResultKept (s t : State) : Prop where
  cmd : t.cmd = s.cmd
  dstLen : t.dstLen = s.dstLen
  done : t.done = s.done
  err : t.err = s.err
  drop : t.drop = s.drop
  errCode : t.errCode = s.errCode
  phase : t.phase = s.phase

/-- Every byte outside the `n` bytes from `a` is unchanged. -/
def KeptOutside (s t : State) (a n : Nat) : Prop :=
  ∀ x, ¬ (a ≤ x ∧ x < a + n) → t.mem.byte? x = s.mem.byte? x

/-! ## Completions -/

/-- `t` is what a successful completion leaves of the state `b` in which a command ran, the command having written `out`
bytes from `dst` up (R82, R83), and everything that must not change is unchanged. -/
structure Completed (dst out : Nat) (b t : State) : Prop where
  idle : t.phase = .idle
  done : t.done = true
  err : t.err = b.err
  errCode : t.errCode = b.errCode
  drop : t.drop = b.drop
  cmd : t.cmd = b.cmd
  dstLen : t.dstLen.toNat = out
  registers : ParamsKept b t
  hostSide : HostKept b t
  memory : KeptOutside b t dst out

/-- `t` is what an error completion with error `e` leaves of the state `b` in which a command ran (R145, R146). -/
structure Failed (e : CmdError) (b t : State) : Prop where
  idle : t.phase = .idle
  done : t.done = true
  err : t.err = true
  errCode : t.errCode = e.code
  drop : t.drop = b.drop
  cmd : t.cmd = b.cmd
  dstLen : t.dstLen = b.dstLen
  registers : ParamsKept b t
  hostSide : HostKept b t
  memory : t.mem = b.mem

/-! ## The invariant -/

/-- What holds of the machine at reset and after every step. -/
structure Inv (s : State) : Prop where
  /-- The memory list is in its canonical form. -/
  memCanonical : s.mem.wf = true
  /-- No byte is written at or above `MEM_SIZE` (R40). -/
  memInside : ∀ a, s.memSize ≤ a → s.mem.byte? a = none
  /-- `BUSY` and `DONE` are never both 1 (R27). -/
  busyNotDone : s.busy = true → s.done = false
  /-- While a command runs, `ERR` and `DST_LEN` are 0 (R30, R33). -/
  busyClear : s.busy = true → s.err = false ∧ s.dstLen = 0
  /-- `ERR = 1` if and only if `ERRCODE ≠ 0` (R27). -/
  errCode : s.err = true ↔ s.errCode ≠ 0
  /-- After a failed command `DST_LEN` is 0 (R33). -/
  errLen : s.err = true → s.dstLen = 0
  /-- `ERRCODE` is 0 or the code of an error the engine raises: never 1, 2, 5, 13, 14 or 15 (R142). -/
  codeRaised : s.errCode.toNat ∈ [0, 3, 4, 6, 7, 8, 9, 10, 11, 12]
  /-- The live `CMD` register equals `L.CMD` while a command runs (R31). -/
  cmdLatched : ∀ l, s.phase = .busy l → s.cmd = l.cmd
  /-- `BUSY = 0` and `DONE = 0` hold together only before the first acceptance: `CMD`, `STATUS` and `DST_LEN` are as after
  reset (R26, R29, R38). -/
  fresh : s.busy = false → s.done = false → s.cmd = 0 ∧ s.dstLen = 0 ∧ s.err = false ∧ s.drop = false

/-! ## Sets of commands and registers -/

/-- The 15 commands marked "performs" in R62, the supported commands of R72. -/
def supportedCommands : List Instr :=
  [.decStd24, .decStd32, .decFs32, .decDxt1, .decDxt1a, .decDxt3, .decDxt5, .decStd16, .decMask16, .encStd24, .encFs32,
    .encDxt3, .emitStd24, .emitFs32, .emitDxt3]

/-- The 14 commands marked "raises UNSUPPORTED_TARGET" in R62. -/
def unsupportedTargets : List Instr :=
  [.encStd32, .encDxt1, .encDxt1a, .encDxt5, .encStd16, .encMask16, .encUnknown, .emitStd32, .emitDxt1, .emitDxt1a,
    .emitDxt5, .emitStd16, .emitMask16, .emitUnknown]

/-- The ten parameter registers, which hold what the host last wrote (R18 to R23). -/
def parameterRegs : List Reg :=
  [.srcAddr, .srcLen, .dstAddr, .dstCap, .width, .height, .maskR, .maskG, .maskB, .maskA]

/-- The read-only registers (R17). -/
def readOnlyRegs : List Reg := [.status, .dstLen, .fourccDxt3, .fsMagic]

/-- The four masks replaced, in the registers and in the latched copy of a running command (R23, R31). -/
def State.withMasks (s : State) (r g b a : Word) : State :=
  { s with
    maskR := r
    maskG := g
    maskB := b
    maskA := a
    phase :=
      match s.phase with
      | .idle => .idle
      | .busy l => .busy { l with maskR := r, maskG := g, maskB := b, maskA := a } }

/-! ## What memory holds -/

/-- The four bytes of memory from `a` up are the texel `(b, g, r, al)` (R10, R43). -/
def HoldsTexel (m : Memory) (a : Nat) (b g r al : Byte) : Prop :=
  m.read a = b ∧ m.read (a + 1) = g ∧ m.read (a + 2) = r ∧ m.read (a + 3) = al

end Sys2Proof.Machine
end

