-- ==== Sys2Proof/Certificates/Slice0/Obligations.lean ====
section
/-! DEFINITION. The statements for the provers. Each says which rule of the spec it formalises; `s.latchFor i` is the latched
copy `L` with which command `i` runs from `s`, and `s.start i` the state in which it starts to execute (R68). -/

open Sys2Proof Sys2Proof.Machine

/-! ## Encoding -/

/-- R57 to R62: a word decodes to a command exactly when it is the command's word. -/
def Obligations.DecodeIffCommandWord : Prop :=
  ∀ (v : Word) (i : Instr), decode v = .ok i ↔ v = encode i

/-- R60, R61, R65: a word is illegal exactly when a bit of 31:8 is set, or `OP` (the low digit) is 0 or above 3, or `FMT`
(the next digit) is above 9. -/
def Obligations.IllegalWordsByField : Prop :=
  ∀ v : Word, (∃ r, decode v = .error r) ↔
    (256 ≤ v.toNat ∨ v.toNat % 16 = 0 ∨ 4 ≤ v.toNat % 16 ∨ 10 ≤ v.toNat / 16 % 16)

/-- R62: words of each family written out as the table has them, and four illegal words of spec/95 (X1 to X4). -/
def Obligations.SampleWordsDecode : Prop :=
  decode 0x00000001#32 = .ok .decStd24 ∧ decode 0x00000081#32 = .ok .decMask16 ∧
    decode 0x00000061#32 = .ok .decDxt5 ∧ decode 0x00000052#32 = .ok .encDxt3 ∧
    decode 0x00000023#32 = .ok .emitFs32 ∧ decode 0x00000091#32 = .ok .decUnknown ∧
    decode 0x00000093#32 = .ok .emitUnknown ∧ decode 0x00000000#32 = .error .reservedOp ∧
    decode 0x00000101#32 = .error .reservedBits ∧ decode 0x00000004#32 = .error .reservedOp ∧
    decode 0x000000A1#32 = .error .reservedFmt

/-! ## The step -/

/-- R69: while a command runs and its turn has come (log 6), a step is the execution of the command that the latched word
decodes to. -/
def Obligations.StepRunsDecodedCommand : Prop :=
  ∀ (s : State) (l : Latched) (i : Instr), s.phase = .busy l → (s.hold = 0 ∨ s.host = []) → decode l.cmd = .ok i →
    step s = exec i s

/-- R61, R146: while an illegal word runs and its turn has come (log 6), a step completes it with ILLEGAL_COMMAND
(code 9) and changes nothing else. -/
def Obligations.StepFailsIllegalWord : Prop :=
  ∀ (s : State) (l : Latched) (r : DecodeReject), s.phase = .busy l → (s.hold = 0 ∨ s.host = []) →
    decode l.cmd = .error r → ∃ t, step s = .next t ∧ Failed .illegalCommand s t ∧ t.errCode = 9

/-- The model's schedule (log 6, R167 leaves it open): otherwise a step runs the host's next line, in IDLE and while a
command runs; in IDLE with no line left nothing happens (R155, R159). -/
def Obligations.StepRunsNextHostLine : Prop :=
  (∀ (s : State) (ln : HostLine) (rest : List HostLine), s.phase = .idle → s.host = ln :: rest →
    step s = hostLine ln { s with host := rest }) ∧
  (∀ (s : State) (l : Latched) (ln : HostLine) (rest : List HostLine), s.phase = .busy l → s.host = ln :: rest →
    0 < s.hold → step s = hostLine ln { s with host := rest, hold := s.hold - 1 }) ∧
  (∀ s : State, s.phase = .idle → s.host = [] → step s = .next s)

/-- The model's choice of log 13: in IDLE, a command runs as it does after the acceptance of its word (R68). -/
def Obligations.ExecInIdleAcceptsFirst : Prop :=
  ∀ (i : Instr) (s : State), s.phase = .idle → exec i s = exec i (s.accept (encode i))

/-! ## The register window -/

/-- R18 to R23, R165: a write to a parameter register takes effect at once, whatever the phase, and changes nothing
else. -/
def Obligations.ParameterRegisterWrite : Prop :=
  ∀ (s : State) (r : Reg) (v : Word), r ∈ parameterRegs → ∃ t, hostLine (lineW r v) s = .next t ∧
    t.readReg r = v ∧ (∀ r', r' ≠ r → t.readReg r' = s.readReg r') ∧ t.phase = s.phase ∧ t.mem = s.mem ∧
    t.params = s.params ∧ HostKept s t

/-- R17: a write to a read-only register has no effect, and a later read returns what it would have returned. -/
def Obligations.ReadOnlyRegisterWriteIgnored : Prop :=
  ∀ (s : State) (r : Reg) (v : Word), r ∈ readOnlyRegs → hostLine (lineW r v) s = .next s

/-- R16: a 32-bit read of a reserved offset returns 0, and a write to one has no effect. -/
def Obligations.ReservedOffsets : Prop :=
  ∀ (s : State) (off : Nat) (v : Word), 0x3C ≤ off → off ≤ 0xFC → off % 4 = 0 →
    hostLine (.regRead 4 off) s = .next { s with seen := .reg off 0 :: s.seen } ∧
    hostLine (.regWrite 4 off v) s = .next s

/-- R14, R30, R170: a 32-bit read of a register returns its value and has no side effect. What it returned
is added to the model's own list of observations (log 5). -/
def Obligations.RegisterReadHasNoSideEffect : Prop :=
  ∀ (s : State) (r : Reg),
    hostLine (lineR r) s = .next { s with seen := .reg (regOffset r) (s.readReg r) :: s.seen }

/-- R169: inside the window, an access is refused exactly when it is not a 32-bit access at a multiple of 4. -/
def Obligations.UndefinedRegisterAccessRefused : Prop :=
  ∀ (s : State) (size off : Nat) (v : Word), off < 256 →
    ((size ≠ 4 ∨ off % 4 ≠ 0) → hostLine (.regWrite size off v) s = .refused .undefinedRegisterAccess ∧
      hostLine (.regRead size off) s = .refused .undefinedRegisterAccess) ∧
    ((size = 4 ∧ off % 4 = 0) → (∃ t, hostLine (.regWrite size off v) s = .next t) ∧
      ∃ t, hostLine (.regRead size off) s = .next t)

/-- R68: acceptance of a command word. -/
def Obligations.CommandWriteAccepted : Prop :=
  ∀ (s : State) (v : Word), s.phase = .idle → ∃ t, hostLine (lineW .cmd v) s = .next t ∧ t.cmd = v ∧
    t.phase = .busy ⟨v, s.srcAddr, s.srcLen, s.dstAddr, s.dstCap, s.width, s.height, s.maskR, s.maskG, s.maskB, s.maskA⟩ ∧
    t.statusWord = 1 ∧ t.done = false ∧ t.err = false ∧ t.errCode = 0 ∧ t.drop = false ∧ t.dstLen = 0 ∧
    ParamsKept s t ∧ t.mem = s.mem ∧ t.host = s.host ∧ t.seen = s.seen ∧ t.draws = s.draws

/-- R26, R32, R162: a CMD write while a command runs is dropped: it sets DROP and changes nothing else. -/
def Obligations.CommandWriteDropped : Prop :=
  ∀ (s : State) (l : Latched) (v : Word), s.phase = .busy l →
    hostLine (lineW .cmd v) s = .next { s with drop := true } ∧ ({ s with drop := true } : State).statusWord.getLsbD 3 = true

/-- R27: the layout of STATUS; BUSY and DONE are never both 1, and ERR is 1 exactly when ERRCODE is not 0, in every state
that meets the invariant. -/
def Obligations.StatusLayout : Prop :=
  State.reset.statusWord = 0 ∧ ∀ s : State,
    s.statusWord.getLsbD 0 = s.busy ∧ s.statusWord.getLsbD 1 = s.done ∧ s.statusWord.getLsbD 2 = s.err ∧
    s.statusWord.getLsbD 3 = s.drop ∧ s.statusWord.extractLsb' 4 4 = 0 ∧ s.statusWord.extractLsb' 8 4 = s.errCode ∧
    s.statusWord.extractLsb' 12 20 = 0 ∧
    (Inv s → ¬ (s.statusWord.getLsbD 0 = true ∧ s.statusWord.getLsbD 1 = true) ∧
      (s.statusWord.getLsbD 2 = true ↔ s.statusWord.extractLsb' 8 4 ≠ 0))

/-- R83, R146: what STATUS reads when a command has completed: DONE alone after a success, DONE, ERR and the code after an
error, and DROP as it was. -/
def Obligations.StatusAfterCompletion : Prop :=
  ∀ (i : Instr) (s : State), Inv s → ∃ t, exec i s = .next t ∧
    t.statusWord.toNat = (match check i (s.latchFor i) s.memSize with
      | none => 0x2
      | some e => 0x6 + 0x100 * e.code.toNat) + (if (s.start i).drop then 0x8 else 0)

/-! ## Reset -/

/-- R38: the registers and phase of the reset state; R40, log 4: no byte of memory has been written. That FOURCC_DXT3 reads
0x33545844 does not follow from R38, which says "the parameter FOURCC_DXT3": the number is that of R4 and I1, from general
knowledge, PRESUMED in log 3. -/
def Obligations.ResetStateRegisters : Prop :=
  (∀ r : Reg, r ≠ .fourccDxt3 → r ≠ .fsMagic → State.reset.readReg r = 0) ∧
    State.reset.readReg .fourccDxt3 = 0x33545844 ∧ State.reset.phase = .idle ∧ ∀ a, State.reset.mem.byte? a = none

/-- R38, R156, R158: a reset in IDLE gives every register its reset value, leaves the constants and memory alone. -/
def Obligations.ResetInIdle : Prop :=
  ∀ s : State, s.phase = .idle → ∃ t, hostLine .reset s = .next t ∧
    (∀ r : Reg, r ≠ .fourccDxt3 → r ≠ .fsMagic → t.readReg r = 0) ∧ t.readReg .fourccDxt3 = s.params.fourccDxt3 ∧
    t.readReg .fsMagic = s.params.fsMagic ∧ t.phase = .idle ∧ t.mem = s.mem ∧ t.params = s.params ∧ t.draws = s.draws

/-- R157: a reset while a command runs abandons it: the registers are as after reset, each byte of the output region
holds its value before or the final value, every other byte is unchanged. Which of the two is a free draw (log 8). -/
def Obligations.ResetWhileBusy : Prop :=
  ∀ (s : State) (l : Latched), s.phase = .busy l → ∃ t u, hostLine .reset s = .next t ∧ engineTurn s = .next u ∧
    (∀ r : Reg, r ≠ .fourccDxt3 → r ≠ .fsMagic → t.readReg r = 0) ∧ t.phase = .idle ∧ t.params = s.params ∧
    (∀ a, s.runningOutput = none → t.mem.byte? a = s.mem.byte? a) ∧
    (∀ dst out a, s.runningOutput = some (dst, out) →
      ((dst ≤ a ∧ a < dst + out) → t.mem.byte? a = s.mem.byte? a ∨ t.mem.byte? a = some (u.mem.read a)) ∧
      (¬ (dst ≤ a ∧ a < dst + out) → t.mem.byte? a = s.mem.byte? a))

/-- R39: a command issued straight after reset: an illegal word raises ILLEGAL_COMMAND, DEC.UNKNOWN UNSUPPORTED_FORMAT, an
unsupported target UNSUPPORTED_TARGET, and every supported command INVALID_DIMENSIONS, whatever the parameters of R4
are. -/
def Obligations.CommandStraightAfterReset : Prop :=
  ∀ (p : Params) (v : Word), ∃ t, engineTurn ({ State.reset with params := p } |>.accept v) = .next t ∧
    t.done = true ∧ t.err = true ∧ t.errCode = (match decode v with
      | .error _ => 9
      | .ok i => if i = .decUnknown then 8 else if i ∈ unsupportedTargets then 7 else 4)

/-! ## Errors -/

/-- R71, R144: every command completes, and ERRCODE names the first condition that holds, in the order of R71: an illegal
word first, then the eight conditions of a legal command; when none holds ERRCODE stays as it is (0 after acceptance). -/
def Obligations.FirstErrorReported : Prop :=
  (∀ (s : State) (l : Latched) (r : DecodeReject), s.phase = .busy l → decode l.cmd = .error r →
    ∃ t, engineTurn s = .next t ∧ t.phase = .idle ∧ t.done = true ∧ t.errCode = 9) ∧
  ∀ (i : Instr) (s : State) (l : Latched), s.latchFor i = l → ∃ t, exec i s = .next t ∧ t.phase = .idle ∧ t.done = true ∧
    t.errCode =
      if i = .decUnknown then 8
      else if i ∈ unsupportedTargets then 7
      else if l.width ≠ l.height then 3
      else if l.W ∉ (List.range 30).map (fun k => 2 ^ (k + 2)) then 4
      else if l.srcLen.toNat < needOf i l.N then 6
      else if l.dstCap.toNat < outOf i l.N then 10
      else if l.src + needOf i l.N > s.memSize ∨ l.dst + outOf i l.N > s.memSize then 12
      else if l.src < l.dst + outOf i l.N ∧ l.dst < l.src + needOf i l.N then 11
      else (s.start i).errCode

/-- R145, R146: a command that a condition of `Check` ends changes STATUS and nothing else, an illegal word included;
without a dropped write STATUS then reads 6 with the code in bits 11:8. -/
def Obligations.FailedCommandIsPrecise : Prop :=
  (∀ (s : State) (l : Latched) (r : DecodeReject), s.phase = .busy l → decode l.cmd = .error r →
    ∃ t, engineTurn s = .next t ∧ Failed .illegalCommand s t ∧ (Inv s → t.dstLen = 0) ∧
      (s.drop = false → t.statusWord = 0x906)) ∧
  ∀ (i : Instr) (s : State) (e : CmdError), check i (s.latchFor i) s.memSize = some e →
    ∃ t, exec i s = .next t ∧ Failed e (s.start i) t ∧ (Inv s ∨ s.phase = .idle → t.dstLen = 0) ∧
      ((s.start i).drop = false → t.statusWord.toNat = 6 + 256 * e.code.toNat)

/-- R74: the sizes of the 15 supported commands. -/
def Obligations.SizesOfCommands : Prop :=
  ∀ n : Nat,
    (supportedCommands.map fun i => (needOf i n, outOf i n)) =
      [(3 * n, 4 * n), (4 * n, 4 * n), (4 * n, 4 * n), (n / 2, 4 * n), (n / 2, 4 * n), (n, 4 * n), (n, 4 * n),
        (2 * n, 4 * n), (2 * n, 4 * n), (4 * n, 3 * n), (4 * n, 4 * n), (4 * n, n), (3 * n, 54 + 3 * n),
        (4 * n, 74 + 4 * n), (n, 74 + n)]

/-- R62, R92, R124, R138: the 15 commands that always raise, with their words: DEC.UNKNOWN completes with
UNSUPPORTED_FORMAT (code 8), the unsupported ENC and EMIT targets with UNSUPPORTED_TARGET (code 7), whatever the registers
hold; memory is never touched, and DST_LEN is 0. -/
def Obligations.CommandsThatRaise : Prop :=
  ∀ p ∈ [(Instr.decUnknown, 0x91#32, CmdError.unsupportedFormat, 8#4), (.encStd32, 0x12#32, .unsupportedTarget, 7#4),
      (.encDxt1, 0x32#32, .unsupportedTarget, 7#4), (.encDxt1a, 0x42#32, .unsupportedTarget, 7#4),
      (.encDxt5, 0x62#32, .unsupportedTarget, 7#4), (.encStd16, 0x72#32, .unsupportedTarget, 7#4),
      (.encMask16, 0x82#32, .unsupportedTarget, 7#4), (.encUnknown, 0x92#32, .unsupportedTarget, 7#4),
      (.emitStd32, 0x13#32, .unsupportedTarget, 7#4), (.emitDxt1, 0x33#32, .unsupportedTarget, 7#4),
      (.emitDxt1a, 0x43#32, .unsupportedTarget, 7#4), (.emitDxt5, 0x63#32, .unsupportedTarget, 7#4),
      (.emitStd16, 0x73#32, .unsupportedTarget, 7#4), (.emitMask16, 0x83#32, .unsupportedTarget, 7#4),
      (.emitUnknown, 0x93#32, .unsupportedTarget, 7#4)],
    encode p.1 = p.2.1 ∧ ∀ s : State, ∃ t, exec p.1 s = .next t ∧ Failed p.2.2.1 (s.start p.1) t ∧
      t.errCode = p.2.2.2 ∧ (Inv s ∨ s.phase = .idle → t.dstLen = 0)

/-! ## Results of the unpacker (R86 to R91) -/

/-- R86: DEC.STD24 copies three channels and sets alpha to 255. -/
def Obligations.DecStd24Result : Prop :=
  ∀ (s : State) (l : Latched), s.latchFor .decStd24 = l → Ready (3 * l.N) (4 * l.N) l s.memSize →
    ∃ t, exec .decStd24 s = .next t ∧ Completed l.dst (4 * l.N) (s.start .decStd24) t ∧
      ∀ n < l.N, HoldsTexel t.mem (l.dst + 4 * n) (s.mem.read (l.src + 3 * n)) (s.mem.read (l.src + 3 * n + 1))
        (s.mem.read (l.src + 3 * n + 2)) 255

/-- R87, R88, R91: DEC.STD32, DEC.FS32 and ENC.FS32 copy their 4N input bytes. -/
def Obligations.IdentityCopyResult : Prop :=
  ∀ i ∈ [Instr.decStd32, .decFs32, .encFs32], ∀ (s : State) (l : Latched), s.latchFor i = l →
    Ready (4 * l.N) (4 * l.N) l s.memSize → ∃ t, exec i s = .next t ∧ Completed l.dst (4 * l.N) (s.start i) t ∧
      ∀ k < 4 * l.N, t.mem.read (l.dst + k) = s.mem.read (l.src + k)

/-- R89: DEC.STD16 expands the three 5-bit fields of each word. -/
def Obligations.DecStd16Result : Prop :=
  ∀ (s : State) (l : Latched), s.latchFor .decStd16 = l → Ready (2 * l.N) (4 * l.N) l s.memSize →
    ∃ t, exec .decStd16 s = .next t ∧ Completed l.dst (4 * l.N) (s.start .decStd16) t ∧
      ∀ n < l.N, ∀ p, p = (s.mem.read (l.src + 2 * n)).toNat + 256 * (s.mem.read (l.src + 2 * n + 1)).toNat →
        HoldsTexel t.mem (l.dst + 4 * n) (BitVec.ofNat 8 (p % 32 * 255 / 31)) (BitVec.ofNat 8 (p / 32 % 32 * 255 / 31))
          (BitVec.ofNat 8 (p / 1024 % 32 * 255 / 31)) 255

/-- R90: ENC.STD24 drops the alpha byte. -/
def Obligations.EncStd24Result : Prop :=
  ∀ (s : State) (l : Latched), s.latchFor .encStd24 = l → Ready (4 * l.N) (3 * l.N) l s.memSize →
    ∃ t, exec .encStd24 s = .next t ∧ Completed l.dst (3 * l.N) (s.start .encStd24) t ∧
      ∀ n < l.N, ∀ k < 3, t.mem.read (l.dst + 3 * n + k) = s.mem.read (l.src + 4 * n + k)

/-- R86, R90: DEC.STD24 followed by ENC.STD24 on its output gives back the input bytes. -/
def Obligations.Std24RoundTrip : Prop :=
  ∀ (s t u : State) (l l' : Latched), s.latchFor .decStd24 = l → Ready (3 * l.N) (4 * l.N) l s.memSize →
    exec .decStd24 s = .next t → u.mem = t.mem → u.latchFor .encStd24 = l' → l'.src = l.dst → l'.N = l.N →
    Ready (4 * l'.N) (3 * l'.N) l' u.memSize →
    ∃ v, exec .encStd24 u = .next v ∧ ∀ k < 3 * l.N, v.mem.read (l'.dst + k) = s.mem.read (l.src + k)

/-! ## The channel-mask applicator (R93 to R96) -/

/-- R93, R94: DEC.MASK16, channel by channel with its cumulative divisor. -/
def Obligations.DecMask16Result : Prop :=
  ∀ (s : State) (l : Latched) (mb mg mr ma : Nat), s.latchFor .decMask16 = l → mb = l.maskB.toNat → mg = l.maskG.toNat →
    mr = l.maskR.toNat → ma = l.maskA.toNat → Ready (2 * l.N) (4 * l.N) l s.memSize →
    ∃ t, exec .decMask16 s = .next t ∧ Completed l.dst (4 * l.N) (s.start .decMask16) t ∧
      ∀ n < l.N, ∀ p, p = (s.mem.read (l.src + 2 * n)).toNat + 256 * (s.mem.read (l.src + 2 * n + 1)).toNat →
        HoldsTexel t.mem (l.dst + 4 * n)
          (if mb ≠ 0 then BitVec.ofNat 8 (p &&& mb) else 0)
          (if mg ≠ 0 then BitVec.ofNat 8 ((p &&& mg) / (1 + mb)) else 0)
          (if mr ≠ 0 then BitVec.ofNat 8 ((p &&& mr) / (1 + mb + mg)) else 0)
          (if ma ≠ 0 then BitVec.ofNat 8 ((p &&& ma) / (1 + mb + mg + mr)) else 255)

/-- R95: a zero alpha mask gives alpha 255 everywhere, a zero colour mask gives that channel 0 everywhere. -/
def Obligations.ZeroMasks : Prop :=
  ∀ (s t : State) (l : Latched) (n : Nat), s.latchFor .decMask16 = l → Ready (2 * l.N) (4 * l.N) l s.memSize →
    exec .decMask16 s = .next t → n < l.N →
    (l.maskA = 0 → t.mem.read (l.dst + 4 * n + 3) = 255) ∧ (l.maskB = 0 → t.mem.read (l.dst + 4 * n) = 0) ∧
    (l.maskG = 0 → t.mem.read (l.dst + 4 * n + 1) = 0) ∧ (l.maskR = 0 → t.mem.read (l.dst + 4 * n + 2) = 0)

/-- R94: for masks that fill the low bits without gap, blue below green below red below alpha, every channel is its field,
shifted right and not scaled (R96). -/
def Obligations.ContiguousMasksShift : Prop :=
  ∀ p b g r a : Nat, 0 < b → 0 < g → 0 < r → 0 < a →
    maskChannels p 1 [(2 ^ b - 1, 0), (2 ^ b * (2 ^ g - 1), 0), (2 ^ (b + g) * (2 ^ r - 1), 0),
        (2 ^ (b + g + r) * (2 ^ a - 1), 255)] =
      [BitVec.ofNat 8 (p % 2 ^ b), BitVec.ofNat 8 (p / 2 ^ b % 2 ^ g), BitVec.ofNat 8 (p / 2 ^ (b + g) % 2 ^ r),
        BitVec.ofNat 8 (p / 2 ^ (b + g + r) % 2 ^ a)]

/-! ## The block decoder (R97 to R108) -/

/-- R97, R80: `(b, t) -> n(b, t)` is a bijection from the blocks and places onto the raster texels. -/
def Obligations.BlockMappingBijective : Prop :=
  ∀ bw : Nat, 0 < bw →
    (∀ b < bw * bw, ∀ t < 16, texelIndex (4 * bw) b t < 4 * bw * (4 * bw)) ∧
    (∀ b b' t t', t < 16 → t' < 16 → texelIndex (4 * bw) b t = texelIndex (4 * bw) b' t' → b = b' ∧ t = t') ∧
    (∀ n < 4 * bw * (4 * bw), ∃ b < bw * bw, ∃ t < 16, texelIndex (4 * bw) b t = n)

/-- R85: the expansions, by their formulas and by their tables. -/
def Obligations.ExpansionTables : Prop :=
  (∀ v ≤ 31, expand5 v = v * 255 / 31) ∧ (∀ v ≤ 63, expand6 v = v * 255 / 63) ∧
  (List.range 32).map expand5 = [0, 8, 16, 24, 32, 41, 49, 57, 65, 74, 82, 90, 98, 106, 115, 123, 131, 139, 148, 156, 164,
      172, 180, 189, 197, 205, 213, 222, 230, 238, 246, 255] ∧
    (List.range 64).map expand6 = [0, 4, 8, 12, 16, 20, 24, 28, 32, 36, 40, 44, 48, 52, 56, 60, 64, 68, 72, 76, 80, 85, 89,
      93, 97, 101, 105, 109, 113, 117, 121, 125, 129, 133, 137, 141, 145, 149, 153, 157, 161, 165, 170, 174, 178, 182, 186,
      190, 194, 198, 202, 206, 210, 214, 218, 222, 226, 230, 234, 238, 242, 246, 250, 255]

/-- R98 to R101: the palette entry a colour block selects, by channel. `mode = four` or `c0 > c1` gives the four-colour
palette, otherwise the three-colour one. Every component stays in `0 .. 255`. -/
def Obligations.ColourPaletteEntries : Prop :=
  ∀ (mode : ColourMode) (c0 c1 : Nat), c0 < 65536 → c1 < 65536 →
    ∀ x y : Colour, x = ⟨c0 % 32 * 255 / 31, c0 / 32 % 64 * 255 / 63, c0 / 2048 * 255 / 31⟩ →
      y = ⟨c1 % 32 * 255 / 31, c1 / 32 % 64 * 255 / 63, c1 / 2048 * 255 / 31⟩ →
      colourPalette mode c0 c1 0 = ⟨x.b, x.g, x.r, 255⟩ ∧ colourPalette mode c0 c1 1 = ⟨y.b, y.g, y.r, 255⟩ ∧
      (mode = .four ∨ c1 < c0 →
        colourPalette mode c0 c1 2 = ⟨(2 * x.b + y.b) / 3, (2 * x.g + y.g) / 3, (2 * x.r + y.r) / 3, 255⟩ ∧
        colourPalette mode c0 c1 3 = ⟨(x.b + 2 * y.b) / 3, (x.g + 2 * y.g) / 3, (x.r + 2 * y.r) / 3, 255⟩) ∧
      (¬ (mode = .four ∨ c1 < c0) →
        colourPalette mode c0 c1 2 = ⟨(x.b + y.b) / 2, (x.g + y.g) / 2, (x.r + y.r) / 2, 255⟩ ∧
        colourPalette mode c0 c1 3 = ⟨0, 0, 0, if mode = .dxt1a then 0 else 255⟩) ∧
      ∀ j, (colourPalette mode c0 c1 j).b ≤ 255 ∧ (colourPalette mode c0 c1 j).g ≤ 255 ∧
        (colourPalette mode c0 c1 j).r ≤ 255 ∧ (colourPalette mode c0 c1 j).a ≤ 255

/-- R106: the DXT5 alpha palette, entry by entry; every entry stays in `0 .. 255`. -/
def Obligations.AlphaPaletteEntries : Prop :=
  ∀ a0 a1 : Nat, a0 ≤ 255 → a1 ≤ 255 →
    alphaPalette a0 a1 0 = a0 ∧ alphaPalette a0 a1 1 = a1 ∧
    (a1 < a0 → ∀ k, 1 ≤ k → k ≤ 6 → alphaPalette a0 a1 (k + 1) = ((7 - k) * a0 + k * a1) / 7) ∧
    (a0 ≤ a1 → (∀ k, 1 ≤ k → k ≤ 4 → alphaPalette a0 a1 (k + 1) = ((5 - k) * a0 + k * a1) / 5) ∧
      alphaPalette a0 a1 6 = 0 ∧ alphaPalette a0 a1 7 = 255) ∧
    ∀ j ≤ 7, alphaPalette a0 a1 j ≤ 255

/-- R97, R101 to R103: DEC.DXT1 and DEC.DXT1A write every texel of every block from the block's palette and its 2-bit
index. -/
def Obligations.DecDxt1Result : Prop :=
  ∀ p ∈ [(Instr.decDxt1, ColourMode.dxt1), (.decDxt1a, .dxt1a)], ∀ (s : State) (l : Latched), s.latchFor p.1 = l →
    Ready (l.N / 2) (4 * l.N) l s.memSize →
    ∃ t, exec p.1 s = .next t ∧ Completed l.dst (4 * l.N) (s.start p.1) t ∧
      ∀ b < l.NB, ∀ k < 16, ∀ x : Texel,
        x = colourPalette p.2 (s.mem.memRead (l.src + 8 * b) 2) (s.mem.memRead (l.src + 8 * b + 2) 2)
          (s.mem.memRead (l.src + 8 * b + 4) 4 / 4 ^ k % 4) →
        HoldsTexel t.mem (l.dst + 4 * texelIndex l.W b k) (BitVec.ofNat 8 x.b) (BitVec.ofNat 8 x.g) (BitVec.ofNat 8 x.r)
          (BitVec.ofNat 8 x.a)

/-- R104, R105: DEC.DXT3 takes the colour from the four-colour palette and the alpha from the texel's nibble. -/
def Obligations.DecDxt3Result : Prop :=
  ∀ (s : State) (l : Latched), s.latchFor .decDxt3 = l → Ready l.N (4 * l.N) l s.memSize →
    ∃ t, exec .decDxt3 s = .next t ∧ Completed l.dst (4 * l.N) (s.start .decDxt3) t ∧
      ∀ b < l.NB, ∀ k < 16, ∀ x : Texel,
        x = colourPalette .four (s.mem.memRead (l.src + 16 * b + 8) 2) (s.mem.memRead (l.src + 16 * b + 10) 2)
          (s.mem.memRead (l.src + 16 * b + 12) 4 / 4 ^ k % 4) →
        HoldsTexel t.mem (l.dst + 4 * texelIndex l.W b k) (BitVec.ofNat 8 x.b) (BitVec.ofNat 8 x.g) (BitVec.ofNat 8 x.r)
          (BitVec.ofNat 8 (17 * (s.mem.memRead (l.src + 16 * b) 8 / 16 ^ k % 16)))

/-- R106 to R108: DEC.DXT5 takes the colour from the four-colour palette and the alpha from the alpha palette. -/
def Obligations.DecDxt5Result : Prop :=
  ∀ (s : State) (l : Latched), s.latchFor .decDxt5 = l → Ready l.N (4 * l.N) l s.memSize →
    ∃ t, exec .decDxt5 s = .next t ∧ Completed l.dst (4 * l.N) (s.start .decDxt5) t ∧
      ∀ b < l.NB, ∀ k < 16, ∀ x : Texel,
        x = colourPalette .four (s.mem.memRead (l.src + 16 * b + 8) 2) (s.mem.memRead (l.src + 16 * b + 10) 2)
          (s.mem.memRead (l.src + 16 * b + 12) 4 / 4 ^ k % 4) →
        HoldsTexel t.mem (l.dst + 4 * texelIndex l.W b k) (BitVec.ofNat 8 x.b) (BitVec.ofNat 8 x.g) (BitVec.ofNat 8 x.r)
          (BitVec.ofNat 8 (alphaPalette (s.mem.read (l.src + 16 * b)).toNat (s.mem.read (l.src + 16 * b + 1)).toNat
            (s.mem.memRead (l.src + 16 * b + 2) 6 / 8 ^ k % 8)))

/-! ## The block encoder (R109 to R122) -/

/-- R109 to R122: ENC.DXT3 writes, for every block, the alpha nibbles, the two colours in order and the texel indices. -/
def Obligations.EncDxt3Result : Prop :=
  ∀ (s : State) (l : Latched), s.latchFor .encDxt3 = l → Ready (4 * l.N) l.N l s.memSize →
    ∃ t, exec .encDxt3 s = .next t ∧ Completed l.dst l.N (s.start .encDxt3) t ∧
      ∀ b < l.NB, ∀ (ts : List Texel) (c0 c1 : Nat), ts = gather l s.mem b →
        c0 = max (pack565 (endpoint0 ts)) (pack565 (endpoint1 ts)) →
        c1 = min (pack565 (endpoint0 ts)) (pack565 (endpoint1 ts)) →
        t.mem.memRead (l.dst + 16 * b + 8) 2 = c0 ∧ t.mem.memRead (l.dst + 16 * b + 10) 2 = c1 ∧
        ∀ k < 16, ∀ x : Texel, ts[k]? = some x →
          t.mem.memRead (l.dst + 16 * b) 8 / 16 ^ k % 16 = (x.a + 8) / 17 ∧
          t.mem.memRead (l.dst + 16 * b + 12) 4 / 4 ^ k % 4 =
            if c0 = c1 then 0 else selectIndex fun j => colourDist x (palette4 (expand565 c0) (expand565 c1) j)

/-- R109: what the encoder gathers for a block: 16 texels, texel `k` of block `b` the four bytes at `n(b, k)`. -/
def Obligations.GatherReadsBlock : Prop :=
  ∀ (l : Latched) (m : Memory) (b : Nat), (gather l m b).length = 16 ∧ ∀ k < 16, ∀ a,
    a = l.src + 4 * texelIndex l.W b k →
    (gather l m b)[k]? = some ⟨(m.read a).toNat, (m.read (a + 1)).toNat, (m.read (a + 2)).toNat, (m.read (a + 3)).toNat⟩

/-- R111 to R114: the averages, the sign-weighted sums, the deviations and the endpoints of a block, with their bounds. -/
def Obligations.EndpointFormulas : Prop :=
  ∀ ts : List Texel, ts.length = 16 → (∀ x ∈ ts, x.b ≤ 255 ∧ x.g ≤ 255 ∧ x.r ≤ 255) →
    ∀ avgR, avgR = (ts.map Texel.r).sum / 16 →
      (ts.map fun x => (if avgR ≤ x.r then (1 : Int) else -1) * ((x.r : Int) - avgR)).sum =
        (ts.map fun x => |(x.r : Int) - avgR|).sum ∧ 0 ≤ deviation Texel.r ts ∧
      ∀ p ∈ [(Texel.b, Colour.b), (Texel.g, Colour.g), (Texel.r, Colour.r)], ∀ (avg : Nat) (S D : Int),
        avg = (ts.map p.1).sum / 16 →
        S = (ts.map fun x => (if avgR ≤ x.r then (1 : Int) else -1) * ((p.1 x : Int) - avg)).sum →
        D = (S.tdiv 8).tdiv 3 →
        average p.1 ts = avg ∧ avg ≤ 255 ∧ |S| ≤ 16 * 255 ∧ deviation p.1 ts = D ∧ |D| ≤ 170 ∧
          (p.2 (endpoint0 ts) : Int) = min (max ((avg : Int) + D) 0) 255 ∧
          (p.2 (endpoint1 ts) : Int) = min (max ((avg : Int) - D) 0) 255

/-- R114 to R116, R120: packing keeps the top 5, 6 and 5 bits; the two colours of a block are 16-bit values in order; when
they differ, a DXT1 decoder too takes the four-colour palette for them. -/
def Obligations.EncodedColoursOrdered : Prop :=
  (∀ e : Colour, e.b ≤ 255 → e.g ≤ 255 → e.r ≤ 255 → pack565 e = e.r / 8 * 2048 + e.g / 4 * 32 + e.b / 8) ∧
  ∀ ts : List Texel, blockColour1 ts ≤ blockColour0 ts ∧ blockColour0 ts < 65536 ∧
    (blockColour0 ts ≠ blockColour1 ts → ∀ j, colourPalette .dxt1 (blockColour0 ts) (blockColour1 ts) j =
      palette4 (expand565 (blockColour0 ts)) (expand565 (blockColour1 ts)) j)

/-- R7, R42: a read of `n` bytes is the sum of the bytes, each at its place, the lowest address in the lowest bits; bytes
written from an integer, low byte first, read back as it. -/
def Obligations.MemReadLittleEndian : Prop :=
  ∀ (m : Memory) (a n : Nat), m.memRead a n = ((List.range n).map fun k => (m.read (a + k)).toNat * 2 ^ (8 * k)).sum ∧
    m.memRead a n < 2 ^ (8 * n) ∧ ∀ v < 2 ^ (8 * n), (m.writeBytes a (leBytes n v)).memRead a n = v ∧
      ∀ k < n, ((m.writeBytes a (leBytes n v)).read (a + k)).toNat = v / 2 ^ (8 * k) % 256

/-- R118: the distance of two colours is the root of 100000000 times the squared distance, rounded down; comparing distances
is comparing squared distances, ties included. -/
def Obligations.DistanceComparesAsSquares : Prop :=
  ∀ (t p q : Texel) (x y : Int), (∀ u ∈ [t, p, q], u.b ≤ 255 ∧ u.g ≤ 255 ∧ u.r ≤ 255) →
    x = ((t.b : Int) - p.b) ^ 2 + ((t.g : Int) - p.g) ^ 2 + ((t.r : Int) - p.r) ^ 2 →
    y = ((t.b : Int) - q.b) ^ 2 + ((t.g : Int) - q.g) ^ 2 + ((t.r : Int) - q.r) ^ 2 →
    (colourDist t p : Int) ^ 2 ≤ 100000000 * x ∧ 100000000 * x < ((colourDist t p : Int) + 1) ^ 2 ∧
      (colourDist t p < colourDist t q ↔ x < y) ∧ (colourDist t p = colourDist t q ↔ x = y)

/-- R119: the selected index has the least distance, and is the lowest of those that have it. -/
def Obligations.SelectedIndexLeastAndLowest : Prop :=
  ∀ d : Nat → Nat, selectIndex d ≤ 3 ∧ (∀ k ≤ 3, d (selectIndex d) ≤ d k) ∧ ∀ k < selectIndex d, d (selectIndex d) < d k

/-! ## The serializer (R125 to R137) -/

/-- R125 to R137: EMIT.STD24 writes the 54-byte header and copies the payload. -/
def Obligations.EmitStd24Result : Prop :=
  ∀ (s : State) (l : Latched), s.latchFor .emitStd24 = l → Ready (3 * l.N) (54 + 3 * l.N) l s.memSize →
    ∃ t, exec .emitStd24 s = .next t ∧ Completed l.dst (54 + 3 * l.N) (s.start .emitStd24) t ∧
      t.mem.memRead l.dst 1 = 0x42 ∧ t.mem.memRead (l.dst + 1) 1 = 0x4D ∧
      t.mem.memRead (l.dst + 2) 4 = 54 + 3 * l.N ∧ t.mem.memRead (l.dst + 6) 4 = 0 ∧ t.mem.memRead (l.dst + 10) 4 = 54 ∧
      t.mem.memRead (l.dst + 14) 4 = 40 ∧ t.mem.memRead (l.dst + 18) 4 = l.W ∧ t.mem.memRead (l.dst + 22) 4 = l.H ∧
      t.mem.memRead (l.dst + 26) 2 = 1 ∧ t.mem.memRead (l.dst + 28) 2 = 24 ∧ t.mem.memRead (l.dst + 30) 4 = 0 ∧
      t.mem.memRead (l.dst + 34) 4 = 3 * l.N ∧ t.mem.memRead (l.dst + 38) 16 = 0 ∧
      ∀ k < 3 * l.N, t.mem.read (l.dst + 54 + k) = s.mem.read (l.src + k)

/-- R125 to R137: EMIT.FS32 and EMIT.DXT3 write the 74-byte header, its last 20 bytes the vendor extension record, and
copy the payload. -/
def Obligations.EmitTaggedResult : Prop :=
  ∀ p ∈ [(Instr.emitFs32, 4, 0), (.emitDxt3, 1, 1)], ∀ (s : State) (l : Latched) (raw : Nat), s.latchFor p.1 = l →
    raw = p.2.1 * l.N → Ready raw (74 + raw) l s.memSize →
    ∃ t, exec p.1 s = .next t ∧ Completed l.dst (74 + raw) (s.start p.1) t ∧
      t.mem.memRead l.dst 1 = 0x42 ∧ t.mem.memRead (l.dst + 1) 1 = 0x4D ∧
      t.mem.memRead (l.dst + 2) 4 = 74 + raw ∧ t.mem.memRead (l.dst + 6) 4 = 0 ∧ t.mem.memRead (l.dst + 10) 4 = 74 ∧
      t.mem.memRead (l.dst + 14) 4 = 40 ∧ t.mem.memRead (l.dst + 18) 4 = l.W ∧ t.mem.memRead (l.dst + 22) 4 = l.H ∧
      t.mem.memRead (l.dst + 26) 2 = 1 ∧ t.mem.memRead (l.dst + 28) 2 = 32 ∧
      t.mem.memRead (l.dst + 30) 4 = p.2.2 * s.params.fourccDxt3.toNat ∧ t.mem.memRead (l.dst + 34) 4 = raw ∧
      t.mem.memRead (l.dst + 38) 16 = 0 ∧ t.mem.memRead (l.dst + 54) 4 = s.params.fsMagic.toNat ∧
      t.mem.memRead (l.dst + 58) 4 = 20 ∧ t.mem.memRead (l.dst + 62) 1 = 0 ∧ t.mem.memRead (l.dst + 63) 1 = 4 ∧
      t.mem.memRead (l.dst + 64) 10 = 0 ∧ ∀ k < raw, t.mem.read (l.dst + 74 + k) = s.mem.read (l.src + k)

/-! ## Host and engine -/

/-- R40, R47: an `MW` inside memory and outside a running command's regions writes its bytes and nothing else. -/
def Obligations.HostMemoryWrite : Prop :=
  ∀ (s : State) (a : Nat) (bs : List Byte), a + bs.length ≤ s.memSize →
    (∀ r, s.runningRegions = some r → ∀ k < bs.length, r.contains (a + k) = false) →
    ∃ t, hostLine (.memWrite a bs) s = .next t ∧ (∀ k b, bs[k]? = some b → t.mem.read (a + k) = b) ∧
      KeptOutside s t a bs.length ∧ ParamsKept s t ∧ ResultKept s t ∧ HostKept s t

/-- R52, R163: an `MW` to a byte of the input or output region of a running command is refused. The regions are those of
R49 with the sizes of R74. The hypotheses include commands that conditions 6 to 9 of Check will end; that these keep their
regions is the model's reading, DEDUCED in log 10 (R49 says that a command that fails a check touches neither region). -/
def Obligations.HostWriteToRunningRegionRefused : Prop :=
  ∀ (s : State) (l : Latched) (i : Instr) (a : Nat) (bs : List Byte) (k : Nat), s.phase = .busy l → decode l.cmd = .ok i →
    i ∈ supportedCommands → GoodSize l → a + bs.length ≤ s.memSize → k < bs.length →
    ((l.src ≤ a + k ∧ a + k < l.src + needOf i l.N) ∨ (l.dst ≤ a + k ∧ a + k < l.dst + outOf i l.N)) →
    hostLine (.memWrite a bs) s = .refused .hostWriteToRunningRegion

/-- R51, R164: an `MR` returns, for a byte of a running command's output region, its value before or its final value, and
for any other byte its current value; it changes no register and no byte. Which of the two is a free draw (log 7). -/
def Obligations.HostMemoryRead : Prop :=
  ∀ (s : State) (a n : Nat), a + n ≤ s.memSize → ∃ bs t u, hostLine (.memRead a n) s = .next t ∧
    engineTurn s = .next u ∧ t.seen = .mem a bs :: s.seen ∧ bs.length = n ∧ t.mem = s.mem ∧ ParamsKept s t ∧
    ResultKept s t ∧ ∀ k b, bs[k]? = some b →
      (b = s.mem.read (a + k) ∨ (b = u.mem.read (a + k) ∧
        ∃ dst out, s.runningOutput = some (dst, out) ∧ dst ≤ a + k ∧ a + k < dst + out))

/-- R52, R53: while a command goes on running, no step changes a byte of its regions or its latched copy. -/
def Obligations.RunningRegionsStable : Prop :=
  ∀ (s t : State) (l l' : Latched), s.phase = .busy l → step s = .next t → t.phase = .busy l' →
    l' = l ∧ ∀ r, l.regions = some r → ∀ a, r.contains a = true → t.mem.byte? a = s.mem.byte? a

/-- R53: the output of a command is a function of the latched copy, the parameters and the bytes of the input region. -/
def Obligations.OutputDependsOnInputOnly : Prop :=
  ∀ (i : Instr) (s s' : State) (l : Latched), i ∈ supportedCommands → s.latchFor i = l → s'.latchFor i = l →
    s'.params = s.params → Ready (needOf i l.N) (outOf i l.N) l s.memSize →
    (∀ a, l.src ≤ a → a < l.src + needOf i l.N → s'.mem.read a = s.mem.read a) →
    ∃ t t', exec i s = .next t ∧ exec i s' = .next t' ∧
      ∀ a, l.dst ≤ a → a < l.dst + outOf i l.N → t'.mem.read a = t.mem.read a

/-- R31, R165: a write to a parameter register while a command runs does not reach the command. -/
def Obligations.ParameterWriteMissesRunningCommand : Prop :=
  ∀ (i : Instr) (s : State) (l : Latched) (r : Reg) (v : Word), s.phase = .busy l → r ∈ parameterRegs →
    ∃ t, exec i s = .next t ∧ exec i (s.writeReg r v) = .next (t.writeReg r v)

/-- R161, R23: only DEC.MASK16 reads the masks: every other command does the same whatever the masks hold. -/
def Obligations.MasksReadByMask16Only : Prop :=
  ∀ (i : Instr) (s : State) (r g b a : Word), i ≠ .decMask16 →
    ∃ t, exec i s = .next t ∧ exec i (s.withMasks r g b a) = .next (t.withMasks r g b a)

/-- R66, R67, R167: a host that waits sees BUSY = 0 after finitely many polls: after `hold + 1` steps the running command
has completed and the WAIT line still stands to read it. `hold` is the model's free number of polls (log 6). -/
def Obligations.WaitTerminates : Prop :=
  ∀ (s : State) (l : Latched) (rest : List HostLine), s.phase = .busy l → s.host = .wait :: rest →
    ∃ t, Sys2Proof.core.run (s.hold + 1) s = .next t ∧ t.phase = .idle ∧ t.done = true ∧ t.host = .wait :: rest ∧
      ∃ u, step t = .next u ∧ u.host = rest ∧ u.seen.head? = some (.reg 4 t.statusWord)

/-! ## Whole-machine rules -/

/-- The invariant holds at reset (R27, R31, R33, R38, R40). -/
def Obligations.InvAtReset : Prop := Inv State.reset

/-- Every step keeps the invariant (R26 to R33, R40, R142). -/
def Obligations.StepKeepsInv : Prop := ∀ s t : State, Inv s → step s = .next t → Inv t

/-- R28: BUSY is set by the acceptance of a command and cleared by its completion, and nothing else writes it but
reset. -/
def Obligations.BusyWrittenOnlyByTheseEvents : Prop :=
  ∀ s t : State, step s = .next t →
    (s.busy = false → t.busy = true → ∃ v rest, s.host = .regWrite 4 0 v :: rest ∧ t.cmd = v) ∧
    (s.busy = true → t.busy = false → engineTurn s = .next t ∨ ∃ rest, s.host = .reset :: rest)

/-- R4, R24, R25: no step changes the parameters, so FOURCC_DXT3 and FS_MAGIC always read the same. -/
def Obligations.StepKeepsParameters : Prop :=
  ∀ s t : State, step s = .next t → t.params = s.params ∧ t.readReg .fourccDxt3 = s.readReg .fourccDxt3 ∧
    t.readReg .fsMagic = s.readReg .fsMagic
end

