-- ==== Sys2Proof/Laws/Blocks.lean ====
section
/-! SUPPORT. The block mapping of R80 and its inverse: `(b, t)` and the raster texel `n(b, t)` determine each other. -/

namespace Sys2Proof.Machine

/-- The column of `n(b, t)` lies inside the image. -/
theorem texelIndex_column_lt {bw b t : Nat} (hbw : 0 < bw) : 4 * (b % bw) + t % 4 < 4 * bw := by
  have h₁ : b % bw < bw := Nat.mod_lt _ hbw
  omega

theorem texelIndex_div {bw b t : Nat} (hbw : 0 < bw) :
    texelIndex (4 * bw) b t / (4 * bw) = 4 * (b / bw) + t / 4 := by
  have hw : 4 * bw / 4 = bw := by omega
  unfold texelIndex
  rw [hw, Nat.add_comm, Nat.add_mul_div_right _ _ (by omega), Nat.div_eq_of_lt (texelIndex_column_lt hbw)]
  omega

theorem texelIndex_mod {bw b t : Nat} (hbw : 0 < bw) :
    texelIndex (4 * bw) b t % (4 * bw) = 4 * (b % bw) + t % 4 := by
  have hw : 4 * bw / 4 = bw := by omega
  unfold texelIndex
  rw [hw, Nat.add_comm, Nat.add_mul_mod_self_right, Nat.mod_eq_of_lt (texelIndex_column_lt hbw)]

/-- The block of texel `n(b, t)` is `b`. -/
theorem blockOf_texelIndex {bw b t : Nat} (hbw : 0 < bw) (ht : t < 16) : blockOf (4 * bw) (texelIndex (4 * bw) b t) = b := by
  have hw : 4 * bw / 4 = bw := by omega
  unfold blockOf
  rw [texelIndex_div hbw, texelIndex_mod hbw, hw]
  have h₁ : (4 * (b / bw) + t / 4) / 4 = b / bw := by omega
  have h₂ : (4 * (b % bw) + t % 4) / 4 = b % bw := by omega
  rw [h₁, h₂, Nat.mul_comm]
  exact Nat.div_add_mod b bw

/-- The place of texel `n(b, t)` in its block is `t`. -/
theorem texelInBlock_texelIndex {bw b t : Nat} (hbw : 0 < bw) (ht : t < 16) :
    texelInBlock (4 * bw) (texelIndex (4 * bw) b t) = t := by
  unfold texelInBlock
  rw [texelIndex_div hbw, texelIndex_mod hbw]
  omega

/-- `n(b, t)` is a raster texel. -/
theorem texelIndex_lt {bw b t : Nat} (hbw : 0 < bw) (hb : b < bw * bw) (ht : t < 16) :
    texelIndex (4 * bw) b t < 4 * bw * (4 * bw) := by
  have h₁ : b / bw < bw := Nat.div_lt_of_lt_mul hb
  have h₂ : texelIndex (4 * bw) b t / (4 * bw) < 4 * bw := by rw [texelIndex_div hbw]; omega
  exact (Nat.div_lt_iff_lt_mul (by omega)).mp h₂

/-- Every raster texel is `n(b, t)` of its block and its place in the block. -/
theorem texelIndex_blockOf {bw n : Nat} (hbw : 0 < bw) :
    texelIndex (4 * bw) (blockOf (4 * bw) n) (texelInBlock (4 * bw) n) = n := by
  have hw : 4 * bw / 4 = bw := by omega
  have hm : n % (4 * bw) < 4 * bw := Nat.mod_lt _ (by omega)
  have hc : n % (4 * bw) / 4 < bw := by omega
  unfold texelIndex blockOf texelInBlock
  rw [hw]
  have h₁ : (n / (4 * bw) / 4 * bw + n % (4 * bw) / 4) / bw = n / (4 * bw) / 4 := by
    rw [Nat.add_comm, Nat.add_mul_div_right _ _ hbw, Nat.div_eq_of_lt hc, Nat.zero_add]
  have h₂ : (n / (4 * bw) / 4 * bw + n % (4 * bw) / 4) % bw = n % (4 * bw) / 4 := by
    rw [Nat.add_comm, Nat.add_mul_mod_self_right, Nat.mod_eq_of_lt hc]
  rw [h₁, h₂]
  have h₃ : 4 * (n / (4 * bw) / 4) + (n / (4 * bw) % 4 * 4 + n % (4 * bw) % 4) / 4 = n / (4 * bw) := by omega
  have h₄ : 4 * (n % (4 * bw) / 4) + (n / (4 * bw) % 4 * 4 + n % (4 * bw) % 4) % 4 = n % (4 * bw) := by omega
  rw [h₃, h₄, Nat.mul_comm]
  exact Nat.div_add_mod n (4 * bw)

/-- The block of a raster texel is one of the image's blocks. -/
theorem blockOf_lt {bw n : Nat} (hbw : 0 < bw) (hn : n < 4 * bw * (4 * bw)) : blockOf (4 * bw) n < bw * bw := by
  have hw : 4 * bw / 4 = bw := by omega
  have hm : n % (4 * bw) < 4 * bw := Nat.mod_lt _ (by omega)
  have hd : n / (4 * bw) < 4 * bw := Nat.div_lt_of_lt_mul hn
  unfold blockOf
  rw [hw]
  have h₁ : n / (4 * bw) / 4 + 1 ≤ bw := by omega
  have h₂ : n % (4 * bw) / 4 < bw := by omega
  have h₃ := Nat.mul_le_mul_right bw h₁
  rw [Nat.add_mul] at h₃
  omega

theorem texelInBlock_lt (w n : Nat) : texelInBlock w n < 16 := by
  unfold texelInBlock; omega

end Sys2Proof.Machine
end

