-- ==== Sys2Proof/Laws/Memory.lean ====
section
/-! SUPPORT. The byte memory: a read after a write, the canonical form kept by every operation, and lists of consecutive
bytes (R7, R40, R47). -/

namespace Sys2Proof.Machine

/-! ## One byte -/

@[simp] theorem Memory.byte?_nil (x : Nat) : Memory.byte? [] x = none := rfl

/-- A read after a write to the same address gives the value written (R47). -/
@[simp] theorem Memory.byte?_write_same (m : Memory) (x : Nat) (v : Byte) : (m.write x v).byte? x = some v := by
  induction m with
  | nil => simp [Memory.write, Memory.byte?]
  | cons p m ih =>
    obtain ⟨a, b⟩ := p
    unfold Memory.write
    split
    · simp [Memory.byte?]
    · split
      · simp [Memory.byte?]
      · rename_i h₁ h₂
        simp [Memory.byte?, Ne.symm h₂, ih]

/-- A write leaves every other address alone (R47). -/
theorem Memory.byte?_write_ne (m : Memory) {x y : Nat} (v : Byte) (h : y ≠ x) : (m.write x v).byte? y = m.byte? y := by
  induction m with
  | nil => simp [Memory.write, Memory.byte?, Ne.symm h]
  | cons p m ih =>
    obtain ⟨a, b⟩ := p
    unfold Memory.write
    split
    · simp [Memory.byte?, Ne.symm h]
    · split
      · rename_i h₁ h₂
        subst h₂
        simp [Memory.byte?, Ne.symm h]
      · simp only [Memory.byte?]
        rw [ih]

theorem Memory.byte?_write (m : Memory) (x y : Nat) (v : Byte) :
    (m.write x v).byte? y = if y = x then some v else m.byte? y := by
  split
  · rename_i h; subst h; simp
  · rename_i h; exact m.byte?_write_ne v h

/-- Reading depends on the written byte alone. -/
theorem Memory.read_congr {m m' : Memory} {a : Nat} (h : m.byte? a = m'.byte? a) : m.read a = m'.read a := by
  unfold Memory.read; rw [h]

theorem Memory.read_of_byte? {m : Memory} {a : Nat} {b : Byte} (h : m.byte? a = some b) : m.read a = b := by
  unfold Memory.read; rw [h]

@[simp] theorem Memory.read_write_same (m : Memory) (x : Nat) (v : Byte) : (m.write x v).read x = v :=
  Memory.read_of_byte? (m.byte?_write_same x v)

theorem Memory.read_write_ne (m : Memory) {x y : Nat} (v : Byte) (h : y ≠ x) : (m.write x v).read y = m.read y :=
  Memory.read_congr (m.byte?_write_ne v h)

/-! ## The canonical form -/

/-- Every address of the list lies above `a`. -/
def Memory.above (a : Nat) (m : Memory) : Prop := ∀ p ∈ m, a < p.1

theorem Memory.wf_cons {a : Nat} {b : Byte} {m : Memory} :
    Memory.wf ((a, b) :: m) = true ↔ Memory.above a m ∧ Memory.wf m = true := by
  induction m generalizing a b with
  | nil => simp [Memory.wf, Memory.above]
  | cons p m ih =>
    obtain ⟨a', b'⟩ := p
    have h := ih (a := a') (b := b')
    constructor
    · intro hw
      simp only [Memory.wf, Bool.and_eq_true, decide_eq_true_eq] at hw
      refine ⟨?_, hw.2⟩
      intro q hq
      rcases List.mem_cons.mp hq with rfl | hq
      · exact hw.1
      · exact lt_trans hw.1 ((h.mp hw.2).1 q hq)
    · rintro ⟨ha, hw⟩
      simp only [Memory.wf, Bool.and_eq_true, decide_eq_true_eq]
      exact ⟨ha (a', b') (List.mem_cons_self ..), hw⟩

theorem Memory.above_write {a x : Nat} {v : Byte} {m : Memory} (h : Memory.above a m) (hx : a < x) :
    Memory.above a (m.write x v) := by
  induction m with
  | nil => intro p hp; simp [Memory.write] at hp; simp [hp, hx]
  | cons p m ih =>
    obtain ⟨c, b⟩ := p
    have hc : a < c := h (c, b) (List.mem_cons_self ..)
    have hm : Memory.above a m := fun q hq => h q (List.mem_cons_of_mem _ hq)
    unfold Memory.write
    split
    · intro q hq
      rcases List.mem_cons.mp hq with rfl | hq
      · exact hx
      · exact h q hq
    · split
      · intro q hq
        rcases List.mem_cons.mp hq with rfl | hq
        · exact hx
        · exact hm q hq
      · intro q hq
        rcases List.mem_cons.mp hq with rfl | hq
        · exact hc
        · exact ih hm q hq

/-- A write keeps the canonical form. -/
theorem Memory.wf_write {m : Memory} (h : m.wf = true) (x : Nat) (v : Byte) : (m.write x v).wf = true := by
  induction m with
  | nil => rfl
  | cons p m ih =>
    obtain ⟨a, b⟩ := p
    obtain ⟨ha, hm⟩ := Memory.wf_cons.mp h
    unfold Memory.write
    split
    · rename_i hx
      refine Memory.wf_cons.mpr ⟨?_, h⟩
      intro q hq
      rcases List.mem_cons.mp hq with rfl | hq
      · exact hx
      · exact lt_trans hx (ha q hq)
    · split
      · rename_i _ hx
        subst hx
        exact Memory.wf_cons.mpr ⟨ha, hm⟩
      · rename_i h₁ h₂
        exact Memory.wf_cons.mpr ⟨Memory.above_write ha (by omega), ih hm⟩

/-- A write of consecutive bytes keeps the canonical form. -/
theorem Memory.wf_writeBytes {m : Memory} (h : m.wf = true) (a : Nat) (bs : List Byte) :
    (m.writeBytes a bs).wf = true := by
  induction bs generalizing m a with
  | nil => exact h
  | cons b bs ih => exact ih (Memory.wf_write h a b) (a + 1)

/-- Nothing is written at or below an address that lies under the whole list. -/
theorem Memory.byte?_above {a x : Nat} {m : Memory} (h : Memory.above a m) (hx : x ≤ a) : m.byte? x = none := by
  induction m with
  | nil => rfl
  | cons p m ih =>
    obtain ⟨c, b⟩ := p
    have hc : a < c := h (c, b) (List.mem_cons_self ..)
    have : ¬ c = x := by omega
    simp only [Memory.byte?, this, if_false]
    exact ih fun q hq => h q (List.mem_cons_of_mem _ hq)

/-- The form is canonical: two canonical memories with the same written bytes are the same list. -/
theorem Memory.ext_of_wf {m m' : Memory} (h : m.wf = true) (h' : m'.wf = true)
    (he : ∀ a, m.byte? a = m'.byte? a) : m = m' := by
  induction m generalizing m' with
  | nil =>
    cases m' with
    | nil => rfl
    | cons q m' => have := he q.1; simp [Memory.byte?] at this
  | cons p m ih =>
    obtain ⟨a, b⟩ := p
    obtain ⟨ha, hm⟩ := Memory.wf_cons.mp h
    cases m' with
    | nil => have := he a; simp [Memory.byte?] at this
    | cons q m' =>
      obtain ⟨c, d⟩ := q
      obtain ⟨hc, hm'⟩ := Memory.wf_cons.mp h'
      have hac : a = c := by
        by_contra hne
        rcases Nat.lt_or_gt_of_ne hne with hlt | hlt
        · have h₁ := he a
          simp only [Memory.byte?, if_true, Ne.symm hne, if_false] at h₁
          rw [Memory.byte?_above hc (Nat.le_of_lt hlt)] at h₁
          simp at h₁
        · have h₁ := he c
          simp only [Memory.byte?, if_true, hne, if_false] at h₁
          rw [Memory.byte?_above ha (Nat.le_of_lt hlt)] at h₁
          simp at h₁
      subst hac
      have hbd : b = d := by have := he a; simpa [Memory.byte?] using this
      subst hbd
      have : m = m' := by
        refine ih hm hm' fun x => ?_
        by_cases hx : a = x
        · subst hx
          rw [Memory.byte?_above ha (Nat.le_refl _), Memory.byte?_above hc (Nat.le_refl _)]
        · have := he x
          simpa [Memory.byte?, hx] using this
      rw [this]

/-! ## Consecutive bytes -/

/-- A byte outside the written range is unchanged. -/
theorem Memory.byte?_writeBytes_out (m : Memory) (a : Nat) (bs : List Byte) {x : Nat}
    (h : ¬ (a ≤ x ∧ x < a + bs.length)) : (m.writeBytes a bs).byte? x = m.byte? x := by
  induction bs generalizing m a with
  | nil => rfl
  | cons b bs ih =>
    simp only [List.length_cons] at h
    simp only [Memory.writeBytes]
    rw [ih (m.write a b) (a + 1) (by omega)]
    exact m.byte?_write_ne b (by omega)

/-- A byte of the written range holds the byte written there. -/
theorem Memory.byte?_writeBytes_in (m : Memory) (a : Nat) (bs : List Byte) {k : Nat} (h : k < bs.length) :
    (m.writeBytes a bs).byte? (a + k) = some bs[k] := by
  induction bs generalizing m a k with
  | nil => simp at h
  | cons b bs ih =>
    simp only [Memory.writeBytes]
    cases k with
    | zero =>
      rw [Memory.byte?_writeBytes_out _ _ _ (by omega)]
      simp
    | succ k =>
      have h' : k < bs.length := by simpa using h
      have := ih (m.write a b) (a + 1) h'
      rw [show a + (k + 1) = a + 1 + k by omega, this]
      simp

theorem Memory.read_writeBytes_in (m : Memory) (a : Nat) (bs : List Byte) {k : Nat} (h : k < bs.length) :
    (m.writeBytes a bs).read (a + k) = bs[k] :=
  Memory.read_of_byte? (m.byte?_writeBytes_in a bs h)

theorem Memory.read_writeBytes_out (m : Memory) (a : Nat) (bs : List Byte) {x : Nat}
    (h : ¬ (a ≤ x ∧ x < a + bs.length)) : (m.writeBytes a bs).read x = m.read x :=
  Memory.read_congr (m.byte?_writeBytes_out a bs h)

@[simp] theorem Memory.bytes_length (m : Memory) (a n : Nat) : (m.bytes a n).length = n := by
  simp [Memory.bytes]

@[simp] theorem Memory.bytes_getElem (m : Memory) (a n k : Nat) (h : k < (m.bytes a n).length) :
    (m.bytes a n)[k] = m.read (a + k) := by
  simp [Memory.bytes]

/-! ## Little-endian integers (R7) -/

@[simp] theorem leBytes_length (n v : Nat) : (leBytes n v).length = n := by
  induction n generalizing v with
  | zero => rfl
  | succ n ih => simp [leBytes, ih]

theorem Memory.memRead_succ (m : Memory) (a n : Nat) :
    m.memRead a (n + 1) = (m.read a).toNat + 256 * m.memRead (a + 1) n := rfl

/-- `MemRead` of `n` bytes is below `2^(8n)`. -/
theorem Memory.memRead_lt (m : Memory) (a n : Nat) : m.memRead a n < 256 ^ n := by
  induction n generalizing a with
  | zero => simp [Memory.memRead]
  | succ n ih =>
    have h₁ := ih (a + 1)
    have h₂ := (m.read a).isLt
    rw [Memory.memRead_succ, pow_succ]
    omega

/-- `MemRead` depends on the bytes it reads alone. -/
theorem Memory.memRead_congr {m m' : Memory} (n : Nat) {a : Nat} (h : ∀ k < n, m.read (a + k) = m'.read (a + k)) :
    m.memRead a n = m'.memRead a n := by
  induction n generalizing a with
  | zero => rfl
  | succ n ih =>
    rw [Memory.memRead_succ, Memory.memRead_succ]
    have h₀ : m.read a = m'.read a := by simpa using h 0 (by omega)
    have h₁ : m.memRead (a + 1) n = m'.memRead (a + 1) n :=
      ih fun k hk => by have := h (k + 1) (by omega); rwa [show a + (k + 1) = a + 1 + k by omega] at this
    rw [h₀, h₁]

/-- A little-endian read of bytes that are the little-endian bytes of `v` gives `v` (R7). -/
theorem Memory.memRead_of_leBytes (m : Memory) (n : Nat) {a v : Nat} (hv : v < 256 ^ n)
    (h : ∀ k b, (leBytes n v)[k]? = some b → m.read (a + k) = b) : m.memRead a n = v := by
  induction n generalizing a v with
  | zero => simp at hv; subst hv; rfl
  | succ n ih =>
    rw [Memory.memRead_succ]
    have h0 := h 0 (u8 v) (by simp [leBytes])
    have hr := ih (a := a + 1) (v := v / 256) (by rw [Nat.pow_succ] at hv; omega)
      (fun k b hk => by
        have := h (k + 1) b (by simpa [leBytes] using hk)
        rwa [show a + (k + 1) = a + 1 + k by omega] at this)
    rw [hr, Nat.add_zero] at *
    rw [h0]
    simp [u8]
    omega

/-- A little-endian read of a segment of bytes that memory holds from `dst` up (R7, R42). -/
theorem Memory.memRead_of_segment {m : Memory} {dst : Nat} {bs : List Byte}
    (h : ∀ k b, bs[k]? = some b → m.read (dst + k) = b) {pre post : List Byte} {n v off : Nat} (hv : v < 256 ^ n)
    (hb : bs = pre ++ leBytes n v ++ post) (ho : off = pre.length) : m.memRead (dst + off) n = v := by
  subst ho
  refine Memory.memRead_of_leBytes _ _ hv fun k b hk => ?_
  have hlt := (List.getElem?_eq_some_iff.mp hk).1
  rw [Nat.add_assoc]
  refine h _ _ ?_
  rw [hb, List.append_assoc, List.getElem?_append_right (by omega), Nat.add_sub_cancel_left, List.getElem?_append_left hlt,
    hk]

/-- A record of little-endian fields, each a width in bytes and a value, in the order they stand in memory. -/
def fieldBytes (fs : List (Nat × Nat)) : List Byte := fs.flatMap fun f => leBytes f.1 f.2

theorem fieldBytes_append (fs gs : List (Nat × Nat)) : fieldBytes (fs ++ gs) = fieldBytes fs ++ fieldBytes gs := by
  simp [fieldBytes]

theorem fieldBytes_length (fs : List (Nat × Nat)) : (fieldBytes fs).length = (fs.map Prod.fst).sum := by
  simp [fieldBytes, List.length_flatMap]

/-- A little-endian read of field `k` of a record that memory holds from `dst` up gives the field's value (R7, R42). -/
theorem Memory.memRead_field {m : Memory} {dst : Nat} {fs : List (Nat × Nat)} {rest : List Byte}
    (h : ∀ k b, (fieldBytes fs ++ rest)[k]? = some b → m.read (dst + k) = b) (k : Nat) {n v off : Nat}
    (hk : fs[k]? = some (n, v)) (hv : v < 256 ^ n) (ho : off = ((fs.take k).map Prod.fst).sum) :
    m.memRead (dst + off) n = v := by
  subst ho
  obtain ⟨hlt, he⟩ := List.getElem?_eq_some_iff.mp hk
  refine m.memRead_of_segment h (pre := fieldBytes (fs.take k)) (post := fieldBytes (fs.drop (k + 1)) ++ rest) hv ?_
    (fieldBytes_length _).symm
  conv_lhs => rw [← List.take_append_drop k fs, List.drop_eq_getElem_cons hlt, he]
  simp [fieldBytes]

/-- Field `k` of packed fields (R110, R121). -/
theorem packFields_field {w : Nat} {xs : List Nat} (h : ∀ x ∈ xs, x < 2 ^ w) {k : Nat} {x : Nat} (hk : xs[k]? = some x) :
    packFields w xs / (2 ^ w) ^ k % 2 ^ w = x := by
  have hp : 0 < 2 ^ w := Nat.two_pow_pos w
  induction xs generalizing k with
  | nil => simp at hk
  | cons y ys ih =>
    cases k with
    | zero =>
      simp only [List.getElem?_cons_zero, Option.some.injEq] at hk
      subst hk
      simp [packFields, Nat.add_mul_mod_self_left, Nat.mod_eq_of_lt (h y (by simp))]
    | succ k =>
      simp only [List.getElem?_cons_succ] at hk
      have := ih (fun x hx => h x (by simp [hx])) hk
      rw [← this, Nat.pow_succ, Nat.mul_comm ((2 ^ w) ^ k), ← Nat.div_div_eq_div_mul]
      simp only [packFields]
      rw [Nat.add_mul_div_left _ _ hp, Nat.div_eq_of_lt (h y (by simp)), Nat.zero_add]

/-- Packed fields fit in their width (R110, R121). -/
theorem packFields_lt {w : Nat} {xs : List Nat} (h : ∀ x ∈ xs, x < 2 ^ w) : packFields w xs < (2 ^ w) ^ xs.length := by
  induction xs with
  | nil => simp [packFields]
  | cons y ys ih =>
    have h₁ := ih fun x hx => h x (by simp [hx])
    have h₂ := h y (by simp)
    simp only [packFields, List.length_cons, Nat.pow_succ]
    have h₃ := Nat.mul_le_mul_left (2 ^ w) h₁
    rw [Nat.mul_comm _ (2 ^ w)]
    simp only [Nat.succ_eq_add_one, Nat.mul_add, Nat.mul_one] at h₃
    omega

/-! ## Raster bytes (R79) -/

theorem rasterBytes_succ (n : Nat) (f : Nat → List Byte) : rasterBytes (n + 1) f = rasterBytes n f ++ f n := by
  simp [rasterBytes, List.range_succ]

/-- `n` texels of `c` bytes each are `c * n` bytes. -/
theorem rasterBytes_length {c : Nat} (n : Nat) {f : Nat → List Byte} (h : ∀ k < n, (f k).length = c) :
    (rasterBytes n f).length = c * n := by
  induction n with
  | zero => simp [rasterBytes]
  | succ n ih =>
    rw [rasterBytes_succ, List.length_append, ih fun k hk => h k (by omega), h n (by omega), Nat.mul_succ]

/-- Byte `j` of texel `k` stands at place `c * k + j`. -/
theorem rasterBytes_getElem? {c : Nat} (n : Nat) {f : Nat → List Byte} (h : ∀ k < n, (f k).length = c) {k j : Nat}
    (hk : k < n) (hj : j < c) : (rasterBytes n f)[c * k + j]? = (f k)[j]? := by
  induction n with
  | zero => omega
  | succ n ih =>
    have hl : (rasterBytes n f).length = c * n := rasterBytes_length n fun i hi => h i (by omega)
    rw [rasterBytes_succ]
    by_cases hkn : k < n
    · have hb : c * k + c ≤ c * n := by
        have := Nat.mul_le_mul_left c (show k + 1 ≤ n by omega)
        rwa [Nat.mul_succ] at this
      rw [List.getElem?_append_left (by omega)]
      exact ih (fun i hi => h i (by omega)) hkn
    · have : k = n := by omega
      subst this
      rw [List.getElem?_append_right (by omega), hl]
      congr 1
      omega

end Sys2Proof.Machine
end

