-- ==== Sys2Proof/Laws/State.lean ====
section
/-! SUPPORT. One lemma per field per update of State, true by rfl, so that no later proof unfolds a record update; after
them the lemmas of the operations that choose by the phase. -/

namespace Sys2Proof.Machine

/-! ## `State.clearStatus` -/

@[simp] theorem State.clearStatus_cmd (s : State) : s.clearStatus.cmd = s.cmd := rfl
@[simp] theorem State.clearStatus_srcAddr (s : State) : s.clearStatus.srcAddr = s.srcAddr := rfl
@[simp] theorem State.clearStatus_srcLen (s : State) : s.clearStatus.srcLen = s.srcLen := rfl
@[simp] theorem State.clearStatus_dstAddr (s : State) : s.clearStatus.dstAddr = s.dstAddr := rfl
@[simp] theorem State.clearStatus_dstCap (s : State) : s.clearStatus.dstCap = s.dstCap := rfl
@[simp] theorem State.clearStatus_dstLen (s : State) : s.clearStatus.dstLen = s.dstLen := rfl
@[simp] theorem State.clearStatus_width (s : State) : s.clearStatus.width = s.width := rfl
@[simp] theorem State.clearStatus_height (s : State) : s.clearStatus.height = s.height := rfl
@[simp] theorem State.clearStatus_maskR (s : State) : s.clearStatus.maskR = s.maskR := rfl
@[simp] theorem State.clearStatus_maskG (s : State) : s.clearStatus.maskG = s.maskG := rfl
@[simp] theorem State.clearStatus_maskB (s : State) : s.clearStatus.maskB = s.maskB := rfl
@[simp] theorem State.clearStatus_maskA (s : State) : s.clearStatus.maskA = s.maskA := rfl
@[simp] theorem State.clearStatus_done (s : State) : s.clearStatus.done = false := rfl
@[simp] theorem State.clearStatus_err (s : State) : s.clearStatus.err = false := rfl
@[simp] theorem State.clearStatus_drop (s : State) : s.clearStatus.drop = false := rfl
@[simp] theorem State.clearStatus_errCode (s : State) : s.clearStatus.errCode = 0 := rfl
@[simp] theorem State.clearStatus_phase (s : State) : s.clearStatus.phase = s.phase := rfl
@[simp] theorem State.clearStatus_mem (s : State) : s.clearStatus.mem = s.mem := rfl
@[simp] theorem State.clearStatus_params (s : State) : s.clearStatus.params = s.params := rfl
@[simp] theorem State.clearStatus_host (s : State) : s.clearStatus.host = s.host := rfl
@[simp] theorem State.clearStatus_seen (s : State) : s.clearStatus.seen = s.seen := rfl
@[simp] theorem State.clearStatus_delays (s : State) : s.clearStatus.delays = s.delays := rfl
@[simp] theorem State.clearStatus_hold (s : State) : s.clearStatus.hold = s.hold := rfl
@[simp] theorem State.clearStatus_draws (s : State) : s.clearStatus.draws = s.draws := rfl

/-! ## `State.statusDone` -/

@[simp] theorem State.statusDone_cmd (s : State) : s.statusDone.cmd = s.cmd := rfl
@[simp] theorem State.statusDone_srcAddr (s : State) : s.statusDone.srcAddr = s.srcAddr := rfl
@[simp] theorem State.statusDone_srcLen (s : State) : s.statusDone.srcLen = s.srcLen := rfl
@[simp] theorem State.statusDone_dstAddr (s : State) : s.statusDone.dstAddr = s.dstAddr := rfl
@[simp] theorem State.statusDone_dstCap (s : State) : s.statusDone.dstCap = s.dstCap := rfl
@[simp] theorem State.statusDone_dstLen (s : State) : s.statusDone.dstLen = s.dstLen := rfl
@[simp] theorem State.statusDone_width (s : State) : s.statusDone.width = s.width := rfl
@[simp] theorem State.statusDone_height (s : State) : s.statusDone.height = s.height := rfl
@[simp] theorem State.statusDone_maskR (s : State) : s.statusDone.maskR = s.maskR := rfl
@[simp] theorem State.statusDone_maskG (s : State) : s.statusDone.maskG = s.maskG := rfl
@[simp] theorem State.statusDone_maskB (s : State) : s.statusDone.maskB = s.maskB := rfl
@[simp] theorem State.statusDone_maskA (s : State) : s.statusDone.maskA = s.maskA := rfl
@[simp] theorem State.statusDone_done (s : State) : s.statusDone.done = true := rfl
@[simp] theorem State.statusDone_err (s : State) : s.statusDone.err = s.err := rfl
@[simp] theorem State.statusDone_drop (s : State) : s.statusDone.drop = s.drop := rfl
@[simp] theorem State.statusDone_errCode (s : State) : s.statusDone.errCode = s.errCode := rfl
@[simp] theorem State.statusDone_phase (s : State) : s.statusDone.phase = .idle := rfl
@[simp] theorem State.statusDone_mem (s : State) : s.statusDone.mem = s.mem := rfl
@[simp] theorem State.statusDone_params (s : State) : s.statusDone.params = s.params := rfl
@[simp] theorem State.statusDone_host (s : State) : s.statusDone.host = s.host := rfl
@[simp] theorem State.statusDone_seen (s : State) : s.statusDone.seen = s.seen := rfl
@[simp] theorem State.statusDone_delays (s : State) : s.statusDone.delays = s.delays := rfl
@[simp] theorem State.statusDone_hold (s : State) : s.statusDone.hold = s.hold := rfl
@[simp] theorem State.statusDone_draws (s : State) : s.statusDone.draws = s.draws := rfl

/-! ## `State.statusFailed` -/

@[simp] theorem State.statusFailed_cmd (s : State) (e : CmdError) : (s.statusFailed e).cmd = s.cmd := rfl
@[simp] theorem State.statusFailed_srcAddr (s : State) (e : CmdError) : (s.statusFailed e).srcAddr = s.srcAddr := rfl
@[simp] theorem State.statusFailed_srcLen (s : State) (e : CmdError) : (s.statusFailed e).srcLen = s.srcLen := rfl
@[simp] theorem State.statusFailed_dstAddr (s : State) (e : CmdError) : (s.statusFailed e).dstAddr = s.dstAddr := rfl
@[simp] theorem State.statusFailed_dstCap (s : State) (e : CmdError) : (s.statusFailed e).dstCap = s.dstCap := rfl
@[simp] theorem State.statusFailed_dstLen (s : State) (e : CmdError) : (s.statusFailed e).dstLen = s.dstLen := rfl
@[simp] theorem State.statusFailed_width (s : State) (e : CmdError) : (s.statusFailed e).width = s.width := rfl
@[simp] theorem State.statusFailed_height (s : State) (e : CmdError) : (s.statusFailed e).height = s.height := rfl
@[simp] theorem State.statusFailed_maskR (s : State) (e : CmdError) : (s.statusFailed e).maskR = s.maskR := rfl
@[simp] theorem State.statusFailed_maskG (s : State) (e : CmdError) : (s.statusFailed e).maskG = s.maskG := rfl
@[simp] theorem State.statusFailed_maskB (s : State) (e : CmdError) : (s.statusFailed e).maskB = s.maskB := rfl
@[simp] theorem State.statusFailed_maskA (s : State) (e : CmdError) : (s.statusFailed e).maskA = s.maskA := rfl
@[simp] theorem State.statusFailed_done (s : State) (e : CmdError) : (s.statusFailed e).done = true := rfl
@[simp] theorem State.statusFailed_err (s : State) (e : CmdError) : (s.statusFailed e).err = true := rfl
@[simp] theorem State.statusFailed_drop (s : State) (e : CmdError) : (s.statusFailed e).drop = s.drop := rfl
@[simp] theorem State.statusFailed_errCode (s : State) (e : CmdError) : (s.statusFailed e).errCode = e.code := rfl
@[simp] theorem State.statusFailed_phase (s : State) (e : CmdError) : (s.statusFailed e).phase = .idle := rfl
@[simp] theorem State.statusFailed_mem (s : State) (e : CmdError) : (s.statusFailed e).mem = s.mem := rfl
@[simp] theorem State.statusFailed_params (s : State) (e : CmdError) : (s.statusFailed e).params = s.params := rfl
@[simp] theorem State.statusFailed_host (s : State) (e : CmdError) : (s.statusFailed e).host = s.host := rfl
@[simp] theorem State.statusFailed_seen (s : State) (e : CmdError) : (s.statusFailed e).seen = s.seen := rfl
@[simp] theorem State.statusFailed_delays (s : State) (e : CmdError) : (s.statusFailed e).delays = s.delays := rfl
@[simp] theorem State.statusFailed_hold (s : State) (e : CmdError) : (s.statusFailed e).hold = s.hold := rfl
@[simp] theorem State.statusFailed_draws (s : State) (e : CmdError) : (s.statusFailed e).draws = s.draws := rfl

/-! ## `State.accept` -/

@[simp] theorem State.accept_cmd (s : State) (v : Word) : (s.accept v).cmd = v := rfl
@[simp] theorem State.accept_srcAddr (s : State) (v : Word) : (s.accept v).srcAddr = s.srcAddr := rfl
@[simp] theorem State.accept_srcLen (s : State) (v : Word) : (s.accept v).srcLen = s.srcLen := rfl
@[simp] theorem State.accept_dstAddr (s : State) (v : Word) : (s.accept v).dstAddr = s.dstAddr := rfl
@[simp] theorem State.accept_dstCap (s : State) (v : Word) : (s.accept v).dstCap = s.dstCap := rfl
@[simp] theorem State.accept_dstLen (s : State) (v : Word) : (s.accept v).dstLen = 0 := rfl
@[simp] theorem State.accept_width (s : State) (v : Word) : (s.accept v).width = s.width := rfl
@[simp] theorem State.accept_height (s : State) (v : Word) : (s.accept v).height = s.height := rfl
@[simp] theorem State.accept_maskR (s : State) (v : Word) : (s.accept v).maskR = s.maskR := rfl
@[simp] theorem State.accept_maskG (s : State) (v : Word) : (s.accept v).maskG = s.maskG := rfl
@[simp] theorem State.accept_maskB (s : State) (v : Word) : (s.accept v).maskB = s.maskB := rfl
@[simp] theorem State.accept_maskA (s : State) (v : Word) : (s.accept v).maskA = s.maskA := rfl
@[simp] theorem State.accept_done (s : State) (v : Word) : (s.accept v).done = false := rfl
@[simp] theorem State.accept_err (s : State) (v : Word) : (s.accept v).err = false := rfl
@[simp] theorem State.accept_drop (s : State) (v : Word) : (s.accept v).drop = false := rfl
@[simp] theorem State.accept_errCode (s : State) (v : Word) : (s.accept v).errCode = 0 := rfl
@[simp] theorem State.accept_phase (s : State) (v : Word) : (s.accept v).phase = .busy (s.latch v) := rfl
@[simp] theorem State.accept_mem (s : State) (v : Word) : (s.accept v).mem = s.mem := rfl
@[simp] theorem State.accept_params (s : State) (v : Word) : (s.accept v).params = s.params := rfl
@[simp] theorem State.accept_host (s : State) (v : Word) : (s.accept v).host = s.host := rfl
@[simp] theorem State.accept_seen (s : State) (v : Word) : (s.accept v).seen = s.seen := rfl
@[simp] theorem State.accept_delays (s : State) (v : Word) : (s.accept v).delays = s.delays := rfl
@[simp] theorem State.accept_hold (s : State) (v : Word) : (s.accept v).hold = s.hold := rfl
@[simp] theorem State.accept_draws (s : State) (v : Word) : (s.accept v).draws = s.draws := rfl

/-! ## `State.succeed` -/

@[simp] theorem State.succeed_cmd (s : State) (out : Nat) : (s.succeed out).cmd = s.cmd := rfl
@[simp] theorem State.succeed_srcAddr (s : State) (out : Nat) : (s.succeed out).srcAddr = s.srcAddr := rfl
@[simp] theorem State.succeed_srcLen (s : State) (out : Nat) : (s.succeed out).srcLen = s.srcLen := rfl
@[simp] theorem State.succeed_dstAddr (s : State) (out : Nat) : (s.succeed out).dstAddr = s.dstAddr := rfl
@[simp] theorem State.succeed_dstCap (s : State) (out : Nat) : (s.succeed out).dstCap = s.dstCap := rfl
@[simp] theorem State.succeed_dstLen (s : State) (out : Nat) : (s.succeed out).dstLen = BitVec.ofNat 32 out := rfl
@[simp] theorem State.succeed_width (s : State) (out : Nat) : (s.succeed out).width = s.width := rfl
@[simp] theorem State.succeed_height (s : State) (out : Nat) : (s.succeed out).height = s.height := rfl
@[simp] theorem State.succeed_maskR (s : State) (out : Nat) : (s.succeed out).maskR = s.maskR := rfl
@[simp] theorem State.succeed_maskG (s : State) (out : Nat) : (s.succeed out).maskG = s.maskG := rfl
@[simp] theorem State.succeed_maskB (s : State) (out : Nat) : (s.succeed out).maskB = s.maskB := rfl
@[simp] theorem State.succeed_maskA (s : State) (out : Nat) : (s.succeed out).maskA = s.maskA := rfl
@[simp] theorem State.succeed_done (s : State) (out : Nat) : (s.succeed out).done = true := rfl
@[simp] theorem State.succeed_err (s : State) (out : Nat) : (s.succeed out).err = s.err := rfl
@[simp] theorem State.succeed_drop (s : State) (out : Nat) : (s.succeed out).drop = s.drop := rfl
@[simp] theorem State.succeed_errCode (s : State) (out : Nat) : (s.succeed out).errCode = s.errCode := rfl
@[simp] theorem State.succeed_phase (s : State) (out : Nat) : (s.succeed out).phase = .idle := rfl
@[simp] theorem State.succeed_mem (s : State) (out : Nat) : (s.succeed out).mem = s.mem := rfl
@[simp] theorem State.succeed_params (s : State) (out : Nat) : (s.succeed out).params = s.params := rfl
@[simp] theorem State.succeed_host (s : State) (out : Nat) : (s.succeed out).host = s.host := rfl
@[simp] theorem State.succeed_seen (s : State) (out : Nat) : (s.succeed out).seen = s.seen := rfl
@[simp] theorem State.succeed_delays (s : State) (out : Nat) : (s.succeed out).delays = s.delays := rfl
@[simp] theorem State.succeed_hold (s : State) (out : Nat) : (s.succeed out).hold = s.hold := rfl
@[simp] theorem State.succeed_draws (s : State) (out : Nat) : (s.succeed out).draws = s.draws := rfl

/-! ## `State.failWith` -/

@[simp] theorem State.failWith_cmd (s : State) (e : CmdError) : (s.failWith e).cmd = s.cmd := rfl
@[simp] theorem State.failWith_srcAddr (s : State) (e : CmdError) : (s.failWith e).srcAddr = s.srcAddr := rfl
@[simp] theorem State.failWith_srcLen (s : State) (e : CmdError) : (s.failWith e).srcLen = s.srcLen := rfl
@[simp] theorem State.failWith_dstAddr (s : State) (e : CmdError) : (s.failWith e).dstAddr = s.dstAddr := rfl
@[simp] theorem State.failWith_dstCap (s : State) (e : CmdError) : (s.failWith e).dstCap = s.dstCap := rfl
@[simp] theorem State.failWith_dstLen (s : State) (e : CmdError) : (s.failWith e).dstLen = s.dstLen := rfl
@[simp] theorem State.failWith_width (s : State) (e : CmdError) : (s.failWith e).width = s.width := rfl
@[simp] theorem State.failWith_height (s : State) (e : CmdError) : (s.failWith e).height = s.height := rfl
@[simp] theorem State.failWith_maskR (s : State) (e : CmdError) : (s.failWith e).maskR = s.maskR := rfl
@[simp] theorem State.failWith_maskG (s : State) (e : CmdError) : (s.failWith e).maskG = s.maskG := rfl
@[simp] theorem State.failWith_maskB (s : State) (e : CmdError) : (s.failWith e).maskB = s.maskB := rfl
@[simp] theorem State.failWith_maskA (s : State) (e : CmdError) : (s.failWith e).maskA = s.maskA := rfl
@[simp] theorem State.failWith_done (s : State) (e : CmdError) : (s.failWith e).done = true := rfl
@[simp] theorem State.failWith_err (s : State) (e : CmdError) : (s.failWith e).err = true := rfl
@[simp] theorem State.failWith_drop (s : State) (e : CmdError) : (s.failWith e).drop = s.drop := rfl
@[simp] theorem State.failWith_errCode (s : State) (e : CmdError) : (s.failWith e).errCode = e.code := rfl
@[simp] theorem State.failWith_phase (s : State) (e : CmdError) : (s.failWith e).phase = .idle := rfl
@[simp] theorem State.failWith_mem (s : State) (e : CmdError) : (s.failWith e).mem = s.mem := rfl
@[simp] theorem State.failWith_params (s : State) (e : CmdError) : (s.failWith e).params = s.params := rfl
@[simp] theorem State.failWith_host (s : State) (e : CmdError) : (s.failWith e).host = s.host := rfl
@[simp] theorem State.failWith_seen (s : State) (e : CmdError) : (s.failWith e).seen = s.seen := rfl
@[simp] theorem State.failWith_delays (s : State) (e : CmdError) : (s.failWith e).delays = s.delays := rfl
@[simp] theorem State.failWith_hold (s : State) (e : CmdError) : (s.failWith e).hold = s.hold := rfl
@[simp] theorem State.failWith_draws (s : State) (e : CmdError) : (s.failWith e).draws = s.draws := rfl

/-! ## `State.observe` -/

@[simp] theorem State.observe_cmd (s : State) (o : Observation) : (s.observe o).cmd = s.cmd := rfl
@[simp] theorem State.observe_srcAddr (s : State) (o : Observation) : (s.observe o).srcAddr = s.srcAddr := rfl
@[simp] theorem State.observe_srcLen (s : State) (o : Observation) : (s.observe o).srcLen = s.srcLen := rfl
@[simp] theorem State.observe_dstAddr (s : State) (o : Observation) : (s.observe o).dstAddr = s.dstAddr := rfl
@[simp] theorem State.observe_dstCap (s : State) (o : Observation) : (s.observe o).dstCap = s.dstCap := rfl
@[simp] theorem State.observe_dstLen (s : State) (o : Observation) : (s.observe o).dstLen = s.dstLen := rfl
@[simp] theorem State.observe_width (s : State) (o : Observation) : (s.observe o).width = s.width := rfl
@[simp] theorem State.observe_height (s : State) (o : Observation) : (s.observe o).height = s.height := rfl
@[simp] theorem State.observe_maskR (s : State) (o : Observation) : (s.observe o).maskR = s.maskR := rfl
@[simp] theorem State.observe_maskG (s : State) (o : Observation) : (s.observe o).maskG = s.maskG := rfl
@[simp] theorem State.observe_maskB (s : State) (o : Observation) : (s.observe o).maskB = s.maskB := rfl
@[simp] theorem State.observe_maskA (s : State) (o : Observation) : (s.observe o).maskA = s.maskA := rfl
@[simp] theorem State.observe_done (s : State) (o : Observation) : (s.observe o).done = s.done := rfl
@[simp] theorem State.observe_err (s : State) (o : Observation) : (s.observe o).err = s.err := rfl
@[simp] theorem State.observe_drop (s : State) (o : Observation) : (s.observe o).drop = s.drop := rfl
@[simp] theorem State.observe_errCode (s : State) (o : Observation) : (s.observe o).errCode = s.errCode := rfl
@[simp] theorem State.observe_phase (s : State) (o : Observation) : (s.observe o).phase = s.phase := rfl
@[simp] theorem State.observe_mem (s : State) (o : Observation) : (s.observe o).mem = s.mem := rfl
@[simp] theorem State.observe_params (s : State) (o : Observation) : (s.observe o).params = s.params := rfl
@[simp] theorem State.observe_host (s : State) (o : Observation) : (s.observe o).host = s.host := rfl
@[simp] theorem State.observe_seen (s : State) (o : Observation) : (s.observe o).seen = o :: s.seen := rfl
@[simp] theorem State.observe_delays (s : State) (o : Observation) : (s.observe o).delays = s.delays := rfl
@[simp] theorem State.observe_hold (s : State) (o : Observation) : (s.observe o).hold = s.hold := rfl
@[simp] theorem State.observe_draws (s : State) (o : Observation) : (s.observe o).draws = s.draws := rfl

/-! ## The latched copy (R31) -/

@[simp] theorem State.latch_srcAddr (s : State) (v : Word) : (s.latch v).srcAddr = s.srcAddr := rfl
@[simp] theorem State.latch_srcLen (s : State) (v : Word) : (s.latch v).srcLen = s.srcLen := rfl
@[simp] theorem State.latch_dstAddr (s : State) (v : Word) : (s.latch v).dstAddr = s.dstAddr := rfl
@[simp] theorem State.latch_dstCap (s : State) (v : Word) : (s.latch v).dstCap = s.dstCap := rfl
@[simp] theorem State.latch_width (s : State) (v : Word) : (s.latch v).width = s.width := rfl
@[simp] theorem State.latch_height (s : State) (v : Word) : (s.latch v).height = s.height := rfl
@[simp] theorem State.latch_maskR (s : State) (v : Word) : (s.latch v).maskR = s.maskR := rfl
@[simp] theorem State.latch_maskG (s : State) (v : Word) : (s.latch v).maskG = s.maskG := rfl
@[simp] theorem State.latch_maskB (s : State) (v : Word) : (s.latch v).maskB = s.maskB := rfl
@[simp] theorem State.latch_maskA (s : State) (v : Word) : (s.latch v).maskA = s.maskA := rfl
@[simp] theorem State.latch_cmd (s : State) (v : Word) : (s.latch v).cmd = v := rfl

/-! ## `State.start`, `State.latchFor`: by the phase -/

theorem State.start_busy {s : State} {l : Latched} (h : s.phase = .busy l) (i : Instr) : s.start i = s := by
  simp [State.start, h]

theorem State.start_idle {s : State} (h : s.phase = .idle) (i : Instr) : s.start i = s.accept (encode i) := by
  simp [State.start, h]

theorem State.latchFor_busy {s : State} {l : Latched} (h : s.phase = .busy l) (i : Instr) : s.latchFor i = l := by
  simp [State.latchFor, h]

theorem State.latchFor_idle {s : State} (h : s.phase = .idle) (i : Instr) : s.latchFor i = s.latch (encode i) := by
  simp [State.latchFor, h]

@[simp] theorem State.start_srcAddr (s : State) (i : Instr) : (s.start i).srcAddr = s.srcAddr := by
  unfold State.start; split <;> rfl

@[simp] theorem State.start_srcLen (s : State) (i : Instr) : (s.start i).srcLen = s.srcLen := by
  unfold State.start; split <;> rfl

@[simp] theorem State.start_dstAddr (s : State) (i : Instr) : (s.start i).dstAddr = s.dstAddr := by
  unfold State.start; split <;> rfl

@[simp] theorem State.start_dstCap (s : State) (i : Instr) : (s.start i).dstCap = s.dstCap := by
  unfold State.start; split <;> rfl

@[simp] theorem State.start_width (s : State) (i : Instr) : (s.start i).width = s.width := by
  unfold State.start; split <;> rfl

@[simp] theorem State.start_height (s : State) (i : Instr) : (s.start i).height = s.height := by
  unfold State.start; split <;> rfl

@[simp] theorem State.start_maskR (s : State) (i : Instr) : (s.start i).maskR = s.maskR := by
  unfold State.start; split <;> rfl

@[simp] theorem State.start_maskG (s : State) (i : Instr) : (s.start i).maskG = s.maskG := by
  unfold State.start; split <;> rfl

@[simp] theorem State.start_maskB (s : State) (i : Instr) : (s.start i).maskB = s.maskB := by
  unfold State.start; split <;> rfl

@[simp] theorem State.start_maskA (s : State) (i : Instr) : (s.start i).maskA = s.maskA := by
  unfold State.start; split <;> rfl

@[simp] theorem State.start_mem (s : State) (i : Instr) : (s.start i).mem = s.mem := by
  unfold State.start; split <;> rfl

@[simp] theorem State.start_params (s : State) (i : Instr) : (s.start i).params = s.params := by
  unfold State.start; split <;> rfl

@[simp] theorem State.start_host (s : State) (i : Instr) : (s.start i).host = s.host := by
  unfold State.start; split <;> rfl

@[simp] theorem State.start_seen (s : State) (i : Instr) : (s.start i).seen = s.seen := by
  unfold State.start; split <;> rfl

@[simp] theorem State.start_delays (s : State) (i : Instr) : (s.start i).delays = s.delays := by
  unfold State.start; split <;> rfl

@[simp] theorem State.start_hold (s : State) (i : Instr) : (s.start i).hold = s.hold := by
  unfold State.start; split <;> rfl

@[simp] theorem State.start_draws (s : State) (i : Instr) : (s.start i).draws = s.draws := by
  unfold State.start; split <;> rfl

/-- Executing starts in the BUSY phase with the latched copy `latchFor`. -/
@[simp] theorem State.start_phase (s : State) (i : Instr) : (s.start i).phase = .busy (s.latchFor i) := by
  unfold State.start State.latchFor; split <;> simp_all

@[simp] theorem State.start_memSize (s : State) (i : Instr) : (s.start i).memSize = s.memSize := by
  simp [State.memSize]

@[simp] theorem State.busy_idle {s : State} (h : s.phase = .idle) : s.busy = false := by simp [State.busy, h]

@[simp] theorem State.busy_busy {s : State} {l : Latched} (h : s.phase = .busy l) : s.busy = true := by
  simp [State.busy, h]

theorem State.busy_iff (s : State) : s.busy = true ↔ ∃ l, s.phase = .busy l := by
  unfold State.busy; split <;> simp_all

/-! ## The CMD write (R26) -/

theorem State.writeCmd_idle {s : State} (h : s.phase = .idle) (v : Word) :
    s.writeCmd v = { s.accept v with hold := s.delays.headD 0, delays := s.delays.tail } := by
  simp [State.writeCmd, h]

theorem State.writeCmd_busy {s : State} {l : Latched} (h : s.phase = .busy l) (v : Word) :
    s.writeCmd v = { s with drop := true } := by
  simp [State.writeCmd, h]

end Sys2Proof.Machine
end

