-- ==== Sys2Proof/Laws/Command.lean ====
section
/-! SUPPORT. What a command can do, said once: `Check` by its conditions (R71), the length of every output (R74, R82), the
two frames of R69, and the inversion of `exec` that later proofs cite instead of unfolding a meaning. -/

namespace Sys2Proof.Machine

/-! ## Check (R71) -/

theorem isPowerOfTwo_iff {w : Nat} (h : w < 2 ^ 32) : isPowerOfTwo w = true ↔ ∃ k, w = 2 ^ k := by
  simp only [isPowerOfTwo, List.any_eq_true, List.mem_range, beq_iff_eq]
  constructor
  · rintro ⟨k, -, hk⟩
    exact ⟨k, hk⟩
  · rintro ⟨k, hk⟩
    refine ⟨k, ?_, hk⟩
    rw [hk] at h
    exact (Nat.pow_lt_pow_iff_right (by omega)).mp h

/-- Conditions 4 and 5 fail exactly when the size is good (R73). -/
theorem checkDimensions_none_iff (l : Latched) : checkDimensions l = none ↔ GoodSize l := by
  have hp := isPowerOfTwo_iff (w := l.W) l.width.isLt
  unfold checkDimensions
  constructor
  · intro h
    split at h
    · cases h
    · split at h
      · cases h
      · rename_i h₁ h₂
        have h₁ : l.width = l.height := not_not.mp h₁
        rw [not_or] at h₂
        exact ⟨h₁, by omega, hp.mp (by simpa using h₂.2)⟩
  · rintro ⟨h₁, h₂, h₃⟩
    have h₄ := hp.mpr h₃
    rw [if_neg (by simpa using h₁), if_neg (by rw [h₄]; simp; omega)]

/-- Conditions 6 to 9 fail exactly when the buffers fit and lie apart. -/
theorem checkBuffers_none_iff (l : Latched) (need out ms : Nat) :
    checkBuffers l need out ms = none ↔
      need ≤ l.srcLen.toNat ∧ out ≤ l.dstCap.toNat ∧ l.src + need ≤ ms ∧ l.dst + out ≤ ms ∧
        (l.dst + out ≤ l.src ∨ l.src + need ≤ l.dst) := by
  unfold checkBuffers
  split
  · simp; omega
  · split
    · simp; omega
    · split
      · simp; omega
      · split
        · simp; omega
        · simp; omega

/-- A supported command passes `Check` exactly when it is ready (R71). -/
theorem check_none_iff {i : Instr} (hi : checkCommand i = none) (l : Latched) (ms : Nat) :
    check i l ms = none ↔ Ready (needOf i l.N) (outOf i l.N) l ms := by
  unfold check
  rw [hi]
  have hd := checkDimensions_none_iff l
  have hb := checkBuffers_none_iff l (needOf i l.N) (outOf i l.N) ms
  constructor
  · intro h
    cases hc : checkDimensions l with
    | some e => rw [hc] at h; cases h
    | none =>
      rw [hc] at h
      obtain ⟨h₁, h₂, h₃, h₄, h₅⟩ := hb.mp h
      exact ⟨hd.mp hc, h₁, h₂, h₃, h₄, h₅⟩
  · intro h
    rw [hd.mpr h.size]
    exact hb.mpr ⟨h.longEnough, h.roomEnough, h.inputInside, h.outputInside, h.apart⟩

/-- A command that conditions 2 and 3 end is ended by them, whatever the rest (R71, R144). -/
theorem check_of_checkCommand {i : Instr} {e : CmdError} (h : checkCommand i = some e) (l : Latched) (ms : Nat) :
    check i l ms = some e := by
  unfold check; rw [h]

/-! ## Sizes (R73, R74) -/

/-- A good size is a multiple of 4 wide, and `W = H` (R73). -/
theorem GoodSize.width_eq {l : Latched} (h : GoodSize l) : ∃ bw, 0 < bw ∧ l.W = 4 * bw ∧ l.H = 4 * bw := by
  obtain ⟨k, hk⟩ := h.powerOfTwo
  have h4 := h.atLeastFour
  have hH : l.H = l.W := by simp [Latched.H, Latched.W, h.square]
  match k, hk with
  | 0, hk => omega
  | 1, hk => omega
  | k + 2, hk =>
    refine ⟨2 ^ k, Nat.two_pow_pos k, ?_, ?_⟩
    · rw [hk, pow_add]; omega
    · rw [hH, hk, pow_add]; omega

/-- A good size has `16 * NB` texels, in `bw * bw` blocks (R73). -/
theorem GoodSize.counts {l : Latched} (h : GoodSize l) :
    ∃ bw, 0 < bw ∧ l.W = 4 * bw ∧ l.N = 4 * bw * (4 * bw) ∧ l.NB = bw * bw := by
  obtain ⟨bw, h₀, h₁, h₂⟩ := h.width_eq
  have hN : l.N = 4 * bw * (4 * bw) := by simp [Latched.N, h₁, h₂]
  refine ⟨bw, h₀, h₁, hN, ?_⟩
  rw [Latched.NB, hN, show 4 * bw * (4 * bw) = bw * bw * 16 by ring]
  omega

theorem GoodSize.sixteen {l : Latched} (h : GoodSize l) : l.N = 16 * l.NB := by
  obtain ⟨bw, _, _, hN, hB⟩ := h.counts
  rw [hN, hB]; ring

/-! ## The length of every output is `out` (R74, R82) -/

@[simp] theorem Texel.bytes_length (t : Texel) : t.bytes.length = 4 := rfl

@[simp] theorem maskChannels_length (p d : Nat) (cs : List (Nat × Nat)) : (maskChannels p d cs).length = cs.length := by
  induction cs generalizing d with
  | nil => rfl
  | cons c cs ih =>
    obtain ⟨m, dflt⟩ := c
    unfold maskChannels
    split <;> simp [ih]

@[simp] theorem blockBytes_length (ts : List Texel) (c0 c1 : Nat) : (blockBytes ts c0 c1).length = 16 := by
  simp [blockBytes]

@[simp] theorem encodeBlock_length (ts : List Texel) : (encodeBlock ts).length = 16 := by simp [encodeBlock]

@[simp] theorem fileHeader_length (hdr raw : Nat) : (fileHeader hdr raw).length = 14 := by simp [fileHeader]

@[simp] theorem infoHeader_length (w h d c r : Nat) : (infoHeader w h d c r).length = 40 := by simp [infoHeader]

@[simp] theorem extensionRecord_length (magic : Nat) : (extensionRecord magic).length = 20 := by simp [extensionRecord]

@[simp] theorem payload_length (l : Latched) (m : Memory) (n : Nat) : (payload l m n).length = n := by simp [payload]

theorem blockDecodeBytes_length (bs : Nat) (f : Memory → Nat → Nat → Texel) (l : Latched) (m : Memory) :
    (blockDecodeBytes bs f l m).length = 4 * l.N :=
  rasterBytes_length l.N fun _ _ => rfl

/-- What a command that performs writes, byte by byte; no byte for a command that always raises. -/
def performOf : Instr → Latched → Params → Memory → List Byte
  | .decStd24 => performDecStd24
  | .decStd32 => performDecStd32
  | .decFs32 => performDecFs32
  | .decDxt1 => performDecDxt1
  | .decDxt1a => performDecDxt1a
  | .decDxt3 => performDecDxt3
  | .decDxt5 => performDecDxt5
  | .decStd16 => performDecStd16
  | .decMask16 => performDecMask16
  | .encStd24 => performEncStd24
  | .encFs32 => performEncFs32
  | .encDxt3 => performEncDxt3
  | .emitStd24 => performEmitStd24
  | .emitFs32 => performEmitFs32
  | .emitDxt3 => performEmitDxt3
  | _ => fun _ _ _ => []

/-- Every supported command writes exactly `out` bytes (R74, R82). -/
theorem performOf_length {i : Instr} (hi : checkCommand i = none) {l : Latched} (hl : GoodSize l) (p : Params)
    (m : Memory) : (performOf i l p m).length = outOf i l.N := by
  have h16 := hl.sixteen
  have r3 : ∀ f : Nat → List Byte, (∀ k < l.N, (f k).length = 3) → (rasterBytes l.N f).length = 3 * l.N :=
    fun f hf => rasterBytes_length l.N hf
  have r4 : ∀ f : Nat → List Byte, (∀ k < l.N, (f k).length = 4) → (rasterBytes l.N f).length = 4 * l.N :=
    fun f hf => rasterBytes_length l.N hf
  have r16 : ∀ f : Nat → List Byte, (∀ k < l.NB, (f k).length = 16) → (rasterBytes l.NB f).length = 16 * l.NB :=
    fun f hf => rasterBytes_length l.NB hf
  cases i
  case decStd24 => exact r4 _ fun _ _ => rfl
  case decStd32 => simp [performOf, performDecStd32, outOf, Instr.op]
  case decFs32 => simp [performOf, performDecFs32, outOf, Instr.op]
  case decDxt1 => exact blockDecodeBytes_length ..
  case decDxt1a => exact blockDecodeBytes_length ..
  case decDxt3 => exact blockDecodeBytes_length ..
  case decDxt5 => exact blockDecodeBytes_length ..
  case decStd16 => exact r4 _ fun _ _ => rfl
  case decMask16 => exact r4 _ fun _ _ => maskChannels_length ..
  case encStd24 => exact r3 _ fun _ _ => rfl
  case encFs32 => simp [performOf, performEncFs32, outOf, Instr.op, Instr.fmt, rawSize]
  case encDxt3 => exact (r16 _ fun _ _ => encodeBlock_length _).trans h16.symm
  case emitStd24 => simp [performOf, performEmitStd24, outOf, Instr.op, Instr.fmt, rawSize, hdrSize]; omega
  case emitFs32 => simp [performOf, performEmitFs32, outOf, Instr.op, Instr.fmt, rawSize, hdrSize]; omega
  case emitDxt3 => simp [performOf, performEmitDxt3, outOf, Instr.op, Instr.fmt, rawSize, hdrSize]; omega
  all_goals simp [checkCommand, Instr.op, Instr.fmt, isTarget] at hi

/-! ## The two frames (R69) -/

/-- The state a successful command leaves. -/
def commandResult (i : Instr) (bs : List Byte) (s : State) : State :=
  State.succeed { s.start i with mem := (s.start i).mem.writeBytes (s.latchFor i).dst bs } (outOf i (s.latchFor i).N)

theorem runCommand_of_check_some {i : Instr} {f : Latched → Params → Memory → List Byte} {s : State} {e : CmdError}
    (h : check i (s.latchFor i) s.memSize = some e) : runCommand i f s = .next ((s.start i).failWith e) := by
  unfold runCommand; simp only [h]

theorem runCommand_of_check_none {i : Instr} {f : Latched → Params → Memory → List Byte} {s : State}
    (h : check i (s.latchFor i) s.memSize = none) :
    runCommand i f s = .next (commandResult i (f (s.latchFor i) s.params s.mem) s) := by
  unfold runCommand; simp only [h]; rfl

/-- The meaning of a supported command is the frame that performs. -/
theorem exec_eq_run {i : Instr} (hi : checkCommand i = none) (s : State) : exec i s = runCommand i (performOf i) s := by
  cases i
  case decStd24 => rfl
  case decStd32 => rfl
  case decFs32 => rfl
  case decDxt1 => rfl
  case decDxt1a => rfl
  case decDxt3 => rfl
  case decDxt5 => rfl
  case decStd16 => rfl
  case decMask16 => rfl
  case encStd24 => rfl
  case encFs32 => rfl
  case encDxt3 => rfl
  case emitStd24 => rfl
  case emitFs32 => rfl
  case emitDxt3 => rfl
  all_goals simp [checkCommand, Instr.op, Instr.fmt, isTarget] at hi

/-- The meaning of an unsupported command is the frame that raises. -/
theorem exec_eq_raise {i : Instr} {e : CmdError} (hi : checkCommand i = some e) (s : State) :
    exec i s = .next ((s.start i).failWith e) := by
  cases i <;> simp [checkCommand, Instr.op, Instr.fmt, isTarget] at hi <;> subst hi <;> rfl

/-- A command that a condition of `Check` ends completes with that error (R69, R146). -/
theorem exec_of_check_some {i : Instr} {s : State} {e : CmdError} (h : check i (s.latchFor i) s.memSize = some e) :
    exec i s = .next ((s.start i).failWith e) := by
  cases hc : checkCommand i with
  | none => rw [exec_eq_run hc]; exact runCommand_of_check_some h
  | some e' =>
    rw [check_of_checkCommand hc] at h
    cases h
    exact exec_eq_raise hc s

/-- A command that passes `Check` writes its output and completes (R69, R83). -/
theorem exec_of_check_none {i : Instr} {s : State} (h : check i (s.latchFor i) s.memSize = none) :
    exec i s = .next (commandResult i (performOf i (s.latchFor i) s.params s.mem) s) := by
  cases hc : checkCommand i with
  | none => rw [exec_eq_run hc]; exact runCommand_of_check_none h
  | some e' => rw [check_of_checkCommand hc] at h; cases h

/-- A supported command that is ready writes its output and completes. -/
theorem exec_of_ready {i : Instr} (hi : checkCommand i = none) {s : State}
    (h : Ready (needOf i (s.latchFor i).N) (outOf i (s.latchFor i).N) (s.latchFor i) s.memSize) :
    exec i s = .next (commandResult i (performOf i (s.latchFor i) s.params s.mem) s) :=
  exec_of_check_none ((check_none_iff hi _ _).mpr h)

theorem checkCommand_of_check_none {i : Instr} {l : Latched} {ms : Nat} (h : check i l ms = none) :
    checkCommand i = none := by
  cases hc : checkCommand i with
  | none => rfl
  | some e => rw [check_of_checkCommand hc] at h; cases h

/-- Everything a command can do: it completes with the error of `Check`, or it writes `out` bytes from `L.DST_ADDR` up
and completes (R69). It never faults and is never refused. -/
theorem exec_cases (i : Instr) (s : State) :
    (∃ e, check i (s.latchFor i) s.memSize = some e ∧ exec i s = .next ((s.start i).failWith e)) ∨
      (checkCommand i = none ∧ Ready (needOf i (s.latchFor i).N) (outOf i (s.latchFor i).N) (s.latchFor i) s.memSize ∧
        exec i s = .next (commandResult i (performOf i (s.latchFor i) s.params s.mem) s) ∧
        (performOf i (s.latchFor i) s.params s.mem).length = outOf i (s.latchFor i).N) := by
  cases h : check i (s.latchFor i) s.memSize with
  | some e => exact .inl ⟨e, rfl, exec_of_check_some h⟩
  | none =>
    have hc := checkCommand_of_check_none h
    have hr := (check_none_iff hc _ _).mp h
    exact .inr ⟨hc, hr, exec_of_check_none h, performOf_length hc hr.size _ _⟩

/-! ## The two completions and their frames -/

/-- An error completion leaves what `Failed` says (R145, R146). -/
theorem failWith_failed (e : CmdError) (b : State) : Failed e b (b.failWith e) := by
  constructor <;> first | rfl | (constructor <;> rfl)

/-- A successful completion leaves what `Completed` says (R82, R83). -/
theorem commandResult_completed {i : Instr} {bs : List Byte} {s : State}
    (hb : bs.length = outOf i (s.latchFor i).N) (hc : outOf i (s.latchFor i).N ≤ (s.latchFor i).dstCap.toNat) :
    Completed (s.latchFor i).dst (outOf i (s.latchFor i).N) (s.start i) (commandResult i bs s) where
  idle := rfl
  done := rfl
  err := rfl
  errCode := rfl
  drop := rfl
  cmd := rfl
  dstLen := by
    have := (s.latchFor i).dstCap.isLt
    simp [commandResult, BitVec.toNat_ofNat, Nat.mod_eq_of_lt (Nat.lt_of_le_of_lt hc this)]
  registers := by constructor <;> rfl
  hostSide := by constructor <;> rfl
  memory := by
    intro x hx
    simp only [commandResult, State.succeed_mem]
    exact Memory.byte?_writeBytes_out _ _ _ (by rw [hb]; exact hx)

/-- Byte `k` of the output region holds byte `k` of what the command performs. -/
theorem commandResult_read {i : Instr} {bs : List Byte} {s : State} {k : Nat} (h : k < bs.length) :
    (commandResult i bs s).mem.read ((s.latchFor i).dst + k) = bs[k] := by
  simp only [commandResult, State.succeed_mem]
  exact Memory.read_writeBytes_in _ _ _ h

/-- A ready command runs to completion, and byte `k` of its output region holds byte `k` of what it performs: the lemma
for every statement of a command's result. -/
theorem exec_ready {i : Instr} (hi : checkCommand i = none) {s : State}
    (h : Ready (needOf i (s.latchFor i).N) (outOf i (s.latchFor i).N) (s.latchFor i) s.memSize) :
    ∃ t, exec i s = .next t ∧
      Completed (s.latchFor i).dst (outOf i (s.latchFor i).N) (s.start i) t ∧
      ∀ k b, (performOf i (s.latchFor i) s.params s.mem)[k]? = some b → t.mem.read ((s.latchFor i).dst + k) = b := by
  refine ⟨_, exec_of_ready hi h, commandResult_completed (performOf_length hi h.size _ _) h.roomEnough, ?_⟩
  intro k b hk
  obtain ⟨hlt, he⟩ := List.getElem?_eq_some_iff.mp hk
  rw [commandResult_read hlt, he]

end Sys2Proof.Machine
end

