-- ==== Sys2Proof/Laws/Decode.lean ====
section
/-! SUPPORT. The decoder and the fields it reads: a word is its three fields, and the reserved codes are those the checks
of WellFormed refuse (R57 to R61). -/

namespace Sys2Proof

/-- A command word is its three fields (R57): no bit of the word is outside them. -/
theorem eq_of_cmdFields_eq {v w : Word} (h : cmdFields v = cmdFields w) : v = w := by
  simp only [cmdFields, CmdFields.mk.injEq] at h
  obtain ⟨h₁, h₂, h₃⟩ := h
  apply BitVec.eq_of_getLsbD_eq
  intro k hk
  by_cases h4 : k < 4
  · have := congrArg (fun x => x.getLsbD k) h₃
    simpa [h4] using this
  · by_cases h8 : k < 8
    · have := congrArg (fun x => x.getLsbD (k - 4)) h₂
      have e : 4 + (k - 4) = k := by omega
      have hlt : k - 4 < 4 := by omega
      simpa [e, hlt] using this
    · have := congrArg (fun x => x.getLsbD (k - 8)) h₁
      have e : 8 + (k - 8) = k := by omega
      have hlt : k - 8 < 24 := by omega
      simpa [e, hlt] using this

/-- An `OP` code names an operation exactly when it is not reserved (R59). -/
theorem Op.ofCode_isSome (c : BitVec 4) : (Op.ofCode c).isSome = (decide (1 ≤ c.toNat) && decide (c.toNat ≤ 3)) := by
  revert c; decide

/-- A `FMT` code names a format exactly when it is not reserved (R58). -/
theorem PixelFormat.ofCode_isSome (c : BitVec 4) : (PixelFormat.ofCode c).isSome = decide (c.toNat ≤ 9) := by
  revert c; decide

/-- The decoder accepts exactly the words whose fields are well formed (R61). -/
theorem decode_isOk (v : Word) : (decode v).toOption.isSome = (cmdFields v).wf := by
  have ho := Op.ofCode_isSome (cmdFields v).op
  have hp := PixelFormat.ofCode_isSome (cmdFields v).fmt
  by_cases hr : (cmdFields v).rsv = 0#24
  · have e : (cmdFields v).wf = ((Op.ofCode (cmdFields v).op).isSome && (PixelFormat.ofCode (cmdFields v).fmt).isSome) := by
      rw [ho, hp]; simp [CmdFields.wf, CmdFields.rsvOk, CmdFields.opOk, CmdFields.fmtOk, hr]
    rw [e]
    unfold decode
    rw [if_neg (by simp [hr])]
    cases Op.ofCode (cmdFields v).op <;> cases PixelFormat.ofCode (cmdFields v).fmt <;> simp [Except.toOption]
  · have e : (cmdFields v).wf = false := by
      simp [CmdFields.wf, CmdFields.rsvOk, hr]
    rw [e]
    unfold decode
    simp [hr, Except.toOption]

end Sys2Proof
end

