-- ==== Sys2Proof/Laws/Host.lean ====
section
/-! SUPPORT. What the engine's turn and each host line can do, said once, and the inversion of a step. -/

namespace Sys2Proof.Machine

/-! ## The engine's turn (R61, R69) -/

theorem engineTurn_idle {s : State} (h : s.phase = .idle) : engineTurn s = .next s := by
  unfold engineTurn; rw [h]

theorem engineTurn_ok {s : State} {l : Latched} {i : Instr} (h : s.phase = .busy l) (hd : decode l.cmd = .ok i) :
    engineTurn s = exec i s := by
  unfold engineTurn; simp only [h, hd]

theorem engineTurn_illegal {s : State} {l : Latched} {e : DecodeReject} (h : s.phase = .busy l)
    (hd : decode l.cmd = .error e) : engineTurn s = .next (s.failWith .illegalCommand) := by
  unfold engineTurn; simp only [h, hd]

/-- Everything the engine's turn can do while a command runs: an error completion, or a successful one that has written
the output region. -/
theorem engineTurn_cases {s : State} {l : Latched} (h : s.phase = .busy l) :
    (∃ e, s.runningOutput = none ∧ engineTurn s = .next (s.failWith e)) ∨
      (∃ out bs, s.runningOutput = some (l.dst, out) ∧ bs.length = out ∧ out ≤ l.dstCap.toNat ∧
        l.dst + out ≤ s.memSize ∧
        engineTurn s = .next (State.succeed { s with mem := s.mem.writeBytes l.dst bs } out)) := by
  cases hd : decode l.cmd with
  | error r =>
    refine .inl ⟨.illegalCommand, ?_, engineTurn_illegal h hd⟩
    simp [State.runningOutput, h, hd]
  | ok i =>
    have hl := State.latchFor_busy h i
    have hs := State.start_busy h i
    rw [engineTurn_ok h hd]
    rcases exec_cases i s with ⟨e, hc, he⟩ | ⟨hi, hr, he, hb⟩
    · refine .inl ⟨e, ?_, by rw [he, hs]⟩
      rw [hl] at hc
      simp [State.runningOutput, h, hd, hc]
    · have hc := (check_none_iff hi _ _).mpr hr
      rw [hl] at hr hc hb he
      refine .inr ⟨outOf i l.N, _, ?_, hb, hr.roomEnough, hr.outputInside, ?_⟩
      · simp [State.runningOutput, h, hd, hc]
      · rw [he, commandResult, hs, hl]

/-- The final memory of a running command differs from the current one in the output region alone (R49). -/
theorem finalMem_of_none {s : State} (h : s.runningOutput = none) : s.finalMem = s.mem := by
  cases hp : s.phase with
  | idle => simp [State.finalMem, engineTurn_idle hp]
  | busy l =>
    rcases engineTurn_cases hp with ⟨e, _, he⟩ | ⟨out, bs, ho, _⟩
    · simp [State.finalMem, he]
    · rw [h] at ho; cases ho

theorem finalMem_outside {s : State} {dst out a : Nat} (h : s.runningOutput = some (dst, out))
    (ha : ¬ (dst ≤ a ∧ a < dst + out)) : s.finalMem.byte? a = s.mem.byte? a := by
  cases hp : s.phase with
  | idle => simp [State.finalMem, engineTurn_idle hp]
  | busy l =>
    rcases engineTurn_cases hp with ⟨e, hn, _⟩ | ⟨out', bs, ho, hb, _, _, he⟩
    · rw [h] at hn; cases hn
    · rw [h] at ho
      simp only [Option.some.injEq, Prod.mk.injEq] at ho
      obtain ⟨h₁, h₂⟩ := ho
      simp only [State.finalMem, he, State.succeed_mem]
      exact Memory.byte?_writeBytes_out _ _ _ (by rw [hb, ← h₁, ← h₂]; exact ha)

/-- The output region of a running command lies inside memory (R75). -/
theorem runningOutput_inside {s : State} {dst out : Nat} (h : s.runningOutput = some (dst, out)) :
    dst + out ≤ s.memSize := by
  cases hp : s.phase with
  | idle => simp [State.runningOutput, hp] at h
  | busy l =>
    rcases engineTurn_cases hp with ⟨e, hn, _⟩ | ⟨out', bs, ho, _, _, hi, _⟩
    · rw [h] at hn; cases hn
    · rw [h] at ho
      simp only [Option.some.injEq, Prod.mk.injEq] at ho
      obtain ⟨h₁, h₂⟩ := ho
      rw [h₁, h₂]; exact hi

/-! ## Regions (R49) -/

theorem Regions.contains_iff (r : Regions) (a : Nat) :
    r.contains a = true ↔ (r.src ≤ a ∧ a < r.src + r.need) ∨ (r.dst ≤ a ∧ a < r.dst + r.out) := by
  simp [Regions.contains]

theorem touchesRunning_false_iff (s : State) (a n : Nat) :
    s.touchesRunning a n = false ↔ ∀ r, s.runningRegions = some r → ∀ k < n, r.contains (a + k) = false := by
  unfold State.touchesRunning
  cases s.runningRegions with
  | none => simp
  | some r => simp [List.any_eq_false]

/-! ## The register window (R14 to R17) -/

/-- The offset table and its inverse agree (R14). -/
theorem regAt_regOffset (r : Reg) : regAt (regOffset r) = some r := by cases r <;> rfl

/-- The offset of every register is a defined access (R15). -/
theorem regOffset_ok (r : Reg) : regAccessOk 4 (regOffset r) = true := by cases r <;> rfl

/-- A write to a register other than `CMD` leaves the result registers, the memory and the host's side alone (R17). -/
theorem writeReg_kept (s : State) {r : Reg} (hr : r ≠ .cmd) (v : Word) :
    ResultKept s (s.writeReg r v) ∧ HostKept s (s.writeReg r v) ∧ (s.writeReg r v).mem = s.mem ∧
      (s.writeReg r v).params = s.params := by
  cases r <;> first | exact absurd rfl hr | exact ⟨⟨rfl, rfl, rfl, rfl, rfl, rfl, rfl⟩, ⟨rfl, rfl, rfl, rfl, rfl⟩, rfl, rfl⟩

theorem writeOffset_cases (s : State) (off : Nat) (v : Word) :
    (regAt off = some .cmd ∧ s.writeOffset off v = s.writeCmd v) ∨
      (regAt off ≠ some .cmd ∧ ResultKept s (s.writeOffset off v) ∧ HostKept s (s.writeOffset off v) ∧
        (s.writeOffset off v).mem = s.mem ∧ (s.writeOffset off v).params = s.params) := by
  unfold State.writeOffset
  cases h : regAt off with
  | none => exact .inr ⟨by simp, ⟨rfl, rfl, rfl, rfl, rfl, rfl, rfl⟩, ⟨rfl, rfl, rfl, rfl, rfl⟩, rfl, rfl⟩
  | some r =>
    by_cases hr : r = .cmd
    · subst hr; exact .inl ⟨rfl, rfl⟩
    · exact .inr ⟨by simpa using hr, writeReg_kept s hr v⟩

/-! ## Host lines: what each answers when it answers a next state -/

theorem hostRegWrite_next {size off : Nat} {v : Word} {s t : State} (h : hostRegWrite size off v s = .next t) :
    regAccessOk size off = true ∧ t = s.writeOffset off v := by
  unfold hostRegWrite at h
  split at h
  · rename_i hk; cases h; exact ⟨hk, rfl⟩
  · cases h

theorem hostRegRead_next {size off : Nat} {s t : State} (h : hostRegRead size off s = .next t) :
    regAccessOk size off = true ∧ t = s.observe (.reg off (s.readOffset off)) := by
  unfold hostRegRead at h
  split at h
  · rename_i hk; cases h; exact ⟨hk, rfl⟩
  · cases h

theorem outsideMemory_false_iff (s : State) (a n : Nat) :
    s.outsideMemory a n = false ↔ n = 0 ∨ a + n ≤ s.memSize := by
  simp [State.outsideMemory]; omega

/-- Bytes that lie inside memory are not outside it. -/
theorem outsideMemory_of_le {s : State} {a n : Nat} (h : a + n ≤ s.memSize) : s.outsideMemory a n = false :=
  (outsideMemory_false_iff s a n).mpr (.inr h)

theorem hostMemWrite_next {a : Nat} {bs : List Byte} {s t : State} (h : hostMemWrite a bs s = .next t) :
    (bs = [] ∨ a + bs.length ≤ s.memSize) ∧ s.touchesRunning a bs.length = false ∧ t = { s with mem := s.mem.writeBytes a bs } := by
  unfold hostMemWrite at h
  split at h
  · cases h
  · split at h
    · cases h
    · rename_i h₁ h₂
      cases h
      have h₃ := (outsideMemory_false_iff s a bs.length).mp (by simpa using h₁)
      exact ⟨h₃.imp_left List.length_eq_zero_iff.mp, by simpa using h₂, rfl⟩

theorem hostMemRead_next {a n : Nat} {s t : State} (h : hostMemRead a n s = .next t) :
    (n = 0 ∨ a + n ≤ s.memSize) ∧
      t = { s.observe (.mem a ((List.range n).map fun k => s.hostByte (a + k) (s.draws + k))) with
        draws := s.draws + n } := by
  unfold hostMemRead at h
  split at h
  · cases h
  · rename_i h₁
    cases h
    exact ⟨(outsideMemory_false_iff s a n).mp (by simpa using h₁), rfl⟩

theorem hostWait_next {s t : State} (h : hostWait s = .next t) :
    (s.busy = true ∧ t = { s.observe (.reg 0x04 s.statusWord) with host := .wait :: s.host }) ∨
      (s.busy = false ∧ t = s.observe (.reg 0x04 s.statusWord)) := by
  unfold hostWait at h
  split at h
  · rename_i hb; cases h; exact .inl ⟨hb, rfl⟩
  · rename_i hb; cases h; exact .inr ⟨by simpa using hb, rfl⟩

/-! ## Reset (R157) -/

theorem foldl_write_wf (p : Nat → Bool) (g : Nat → Byte) (dst : Nat) (ks : List Nat) {m : Memory} (h : m.wf = true) :
    (ks.foldl (fun m k => if p k then m else m.write (dst + k) (g k)) m).wf = true := by
  induction ks generalizing m with
  | nil => exact h
  | cons k ks ih =>
    simp only [List.foldl_cons]
    split
    · exact ih h
    · exact ih (Memory.wf_write h _ _)

theorem foldl_write_byte? (p : Nat → Bool) (g : Nat → Byte) (dst n : Nat) (m : Memory) (x : Nat) :
    ((List.range n).foldl (fun m k => if p k then m else m.write (dst + k) (g k)) m).byte? x =
      if dst ≤ x ∧ x < dst + n then (if p (x - dst) then m.byte? x else some (g (x - dst))) else m.byte? x := by
  induction n with
  | zero =>
    have : ¬ (dst ≤ x ∧ x < dst + 0) := by omega
    rw [if_neg this]; rfl
  | succ n ih =>
    rw [List.range_succ, List.foldl_append]
    simp only [List.foldl_cons, List.foldl_nil]
    by_cases hx : x = dst + n
    · subst hx
      have h₁ : ¬ (dst ≤ dst + n ∧ dst + n < dst + n) := by omega
      have h₂ : dst ≤ dst + n ∧ dst + n < dst + (n + 1) := by omega
      rw [if_neg h₁] at ih
      rw [if_pos h₂, Nat.add_sub_cancel_left]
      split
      · exact ih
      · exact Memory.byte?_write_same _ _ _
    · have h₁ : (dst ≤ x ∧ x < dst + (n + 1)) ↔ (dst ≤ x ∧ x < dst + n) := by omega
      simp only [h₁]
      rw [← ih]
      split
      · rfl
      · exact Memory.byte?_write_ne _ _ hx

/-- A byte after a reset: in the output region of an abandoned command the value before or the final one, as the draw
says; elsewhere unchanged (R157, R158). -/
theorem memAfterReset_byte? (s : State) (x : Nat) :
    s.memAfterReset.byte? x =
      match s.runningOutput with
      | none => s.mem.byte? x
      | some (dst, out) =>
        if dst ≤ x ∧ x < dst + out then
          (if Config.raceDraw (s.draws + (x - dst)) then s.mem.byte? x else some (s.finalMem.read x))
        else s.mem.byte? x := by
  unfold State.memAfterReset
  cases h : s.runningOutput with
  | none => rfl
  | some p =>
    obtain ⟨dst, out⟩ := p
    simp only
    rw [foldl_write_byte? (fun k => Config.raceDraw (s.draws + k)) (fun k => s.finalMem.read (dst + k))]
    split
    · rename_i hx
      rw [show dst + (x - dst) = x by omega]
    · rfl

theorem memAfterReset_wf {s : State} (h : s.mem.wf = true) : s.memAfterReset.wf = true := by
  unfold State.memAfterReset
  split
  · exact h
  · exact foldl_write_wf (fun k => Config.raceDraw (s.draws + k)) _ _ _ h

/-! ## The step -/

theorem step_idle {s : State} (h : s.phase = .idle) : step s = hostTurn s := by
  unfold step systemStep; rw [h]

theorem step_engine {s : State} {l : Latched} (h : s.phase = .busy l) (hh : s.hold = 0 ∨ s.host = []) :
    step s = engineTurn s := by
  unfold step systemStep; simp only [h]; rw [if_pos hh]

theorem step_host {s : State} {l : Latched} (h : s.phase = .busy l) (hh : ¬ (s.hold = 0 ∨ s.host = [])) :
    step s = hostTurn { s with hold := s.hold - 1 } := by
  unfold step systemStep; simp only [h]; rw [if_neg hh]

theorem hostTurn_nil {s : State} (h : s.host = []) : hostTurn s = .next s := by
  unfold hostTurn; rw [h]

theorem hostTurn_cons {s : State} {ln : HostLine} {rest : List HostLine} (h : s.host = ln :: rest) :
    hostTurn s = hostLine ln { s with host := rest } := by
  unfold hostTurn; rw [h]

/-- Everything a step can do: the engine completes the running command, nothing happens, or the host's next line runs. -/
theorem step_cases (s : State) :
    ((∃ l, s.phase = .busy l) ∧ step s = engineTurn s) ∨
      (s.phase = .idle ∧ s.host = [] ∧ step s = .next s) ∨
      (∃ ln rest hold, s.host = ln :: rest ∧ step s = hostLine ln { s with hold := hold, host := rest }) := by
  obtain ⟨ph, hp⟩ : ∃ ph, s.phase = ph := ⟨_, rfl⟩
  obtain ⟨hs, hc⟩ : ∃ hs, s.host = hs := ⟨_, rfl⟩
  cases ph with
  | idle =>
    rw [step_idle hp]
    cases hs with
    | nil => exact .inr (.inl ⟨hp, hc, hostTurn_nil hc⟩)
    | cons ln rest => exact .inr (.inr ⟨ln, rest, s.hold, hc, hostTurn_cons hc⟩)
  | busy l =>
    by_cases hh : s.hold = 0 ∨ s.host = []
    · exact .inl ⟨⟨l, hp⟩, step_engine hp hh⟩
    · rw [step_host hp hh]
      cases hs with
      | nil => exact absurd (.inr hc) hh
      | cons ln rest =>
        exact .inr (.inr ⟨ln, rest, s.hold - 1, hc, hostTurn_cons (s := { s with hold := s.hold - 1 }) hc⟩)

end Sys2Proof.Machine
end

