-- ==== Sys2Proof/Laws/PerInstr.lean ====
section
/-! SUPPORT. The family DecodeEncode: for each command, its word is well formed and decodes to it, and its operation and
format are the fields of the word (R57 to R62). -/

namespace Sys2Proof.Laws.DecodeEncode

/-- The word of the command has well-formed fields, decodes to the command, and its fields are the command's operation
and format. -/
def Statement (i : Instr) : Prop :=
  (cmdFields (encode i)).wf = true ∧ decode (encode i) = .ok i ∧
    Op.ofCode (cmdFields (encode i)).op = some i.op ∧ PixelFormat.ofCode (cmdFields (encode i)).fmt = some i.fmt

theorem decStd24 : Statement .decStd24 := ⟨rfl, rfl, rfl, rfl⟩

theorem decStd32 : Statement .decStd32 := ⟨rfl, rfl, rfl, rfl⟩

theorem decFs32 : Statement .decFs32 := ⟨rfl, rfl, rfl, rfl⟩

theorem decDxt1 : Statement .decDxt1 := ⟨rfl, rfl, rfl, rfl⟩

theorem decDxt1a : Statement .decDxt1a := ⟨rfl, rfl, rfl, rfl⟩

theorem decDxt3 : Statement .decDxt3 := ⟨rfl, rfl, rfl, rfl⟩

theorem decDxt5 : Statement .decDxt5 := ⟨rfl, rfl, rfl, rfl⟩

theorem decStd16 : Statement .decStd16 := ⟨rfl, rfl, rfl, rfl⟩

theorem decMask16 : Statement .decMask16 := ⟨rfl, rfl, rfl, rfl⟩

theorem decUnknown : Statement .decUnknown := ⟨rfl, rfl, rfl, rfl⟩

theorem encStd24 : Statement .encStd24 := ⟨rfl, rfl, rfl, rfl⟩

theorem encStd32 : Statement .encStd32 := ⟨rfl, rfl, rfl, rfl⟩

theorem encFs32 : Statement .encFs32 := ⟨rfl, rfl, rfl, rfl⟩

theorem encDxt1 : Statement .encDxt1 := ⟨rfl, rfl, rfl, rfl⟩

theorem encDxt1a : Statement .encDxt1a := ⟨rfl, rfl, rfl, rfl⟩

theorem encDxt3 : Statement .encDxt3 := ⟨rfl, rfl, rfl, rfl⟩

theorem encDxt5 : Statement .encDxt5 := ⟨rfl, rfl, rfl, rfl⟩

theorem encStd16 : Statement .encStd16 := ⟨rfl, rfl, rfl, rfl⟩

theorem encMask16 : Statement .encMask16 := ⟨rfl, rfl, rfl, rfl⟩

theorem encUnknown : Statement .encUnknown := ⟨rfl, rfl, rfl, rfl⟩

theorem emitStd24 : Statement .emitStd24 := ⟨rfl, rfl, rfl, rfl⟩

theorem emitStd32 : Statement .emitStd32 := ⟨rfl, rfl, rfl, rfl⟩

theorem emitFs32 : Statement .emitFs32 := ⟨rfl, rfl, rfl, rfl⟩

theorem emitDxt1 : Statement .emitDxt1 := ⟨rfl, rfl, rfl, rfl⟩

theorem emitDxt1a : Statement .emitDxt1a := ⟨rfl, rfl, rfl, rfl⟩

theorem emitDxt3 : Statement .emitDxt3 := ⟨rfl, rfl, rfl, rfl⟩

theorem emitDxt5 : Statement .emitDxt5 := ⟨rfl, rfl, rfl, rfl⟩

theorem emitStd16 : Statement .emitStd16 := ⟨rfl, rfl, rfl, rfl⟩

theorem emitMask16 : Statement .emitMask16 := ⟨rfl, rfl, rfl, rfl⟩

theorem emitUnknown : Statement .emitUnknown := ⟨rfl, rfl, rfl, rfl⟩

end Sys2Proof.Laws.DecodeEncode
end

