-- ==== Sys2Proof/Laws/Serialize.lean ====
section
/-! SUPPORT. What a reader finds in the output of a supported EMIT: the fields of its header (R126 to R133) and the
format it was emitted as (R139). -/

namespace Sys2Proof.Machine

/-! ## The header as a record of fields (R126, R127, R133) -/

/-- The fields of the base header, each a width and a value, in offset order (R126 to R131). -/
def baseFields (hdr w h depth compression raw : Nat) : List (Nat × Nat) :=
  [(1, 0x42), (1, 0x4D), (4, hdr + raw), (4, 0), (4, hdr), (4, 40), (4, w), (4, h), (2, 1), (2, depth), (4, compression),
    (4, raw), (4, 0), (4, 0), (4, 0), (4, 0)]

/-- The fields of the extension record (R133). -/
def extensionFields (magic : Nat) : List (Nat × Nat) := [(4, magic), (4, 20), (1, 0), (1, 4), (4, 0), (2, 0), (4, 0)]

theorem baseHeader_eq (hdr w h depth compression raw : Nat) :
    fileHeader hdr raw ++ infoHeader w h depth compression raw = fieldBytes (baseFields hdr w h depth compression raw) := by
  simp [fileHeader, infoHeader, baseFields, fieldBytes]

theorem extensionRecord_eq (magic : Nat) : extensionRecord magic = fieldBytes (extensionFields magic) := by
  simp [extensionRecord, extensionFields, fieldBytes]

/-! ## Reading the header back -/

/-- What reads of the base header at `a` give (R126 to R131). -/
structure BaseHeader (m : Memory) (a hdr w h depth compression raw : Nat) : Prop where
  signature1 : m.memRead a 1 = 0x42
  signature2 : m.memRead (a + 1) 1 = 0x4D
  declared : m.memRead (a + 2) 4 = hdr + raw
  dataOffset : m.memRead (a + 10) 4 = hdr
  headerSize : m.memRead (a + 14) 4 = 40
  width : m.memRead (a + 18) 4 = w
  height : m.memRead (a + 22) 4 = h
  planes : m.memRead (a + 26) 2 = 1
  depth : m.memRead (a + 28) 2 = depth
  compression : m.memRead (a + 30) 4 = compression
  rawBytes : m.memRead (a + 34) 4 = raw
  palette : m.memRead (a + 46) 4 = 0

/-- What reads of the extension record at `a` give (R133). -/
structure Extension (m : Memory) (a magic : Nat) : Prop where
  magic : m.memRead a 4 = magic
  version : m.memRead (a + 4) 4 = 20
  subType : m.memRead (a + 9) 1 = 4
  mipCount : m.memRead (a + 14) 2 = 0

/-- Memory that holds a record of fields beginning with the base header reads as its fields. -/
theorem baseHeader_of_fields {m : Memory} {a hdr w h d c raw : Nat} {gs : List (Nat × Nat)} {rest : List Byte}
    (hm : ∀ k b, (fieldBytes (baseFields hdr w h d c raw ++ gs) ++ rest)[k]? = some b → m.read (a + k) = b)
    (hs : hdr + raw < 2 ^ 32) (hw : w < 2 ^ 32) (hh : h < 2 ^ 32) (hd : d < 2 ^ 16) (hc : c < 2 ^ 32) :
    BaseHeader m a hdr w h d c raw where
  signature1 := m.memRead_field (off := 0) hm 0 (by simp [baseFields]) (by omega) (by simp [baseFields])
  signature2 := m.memRead_field hm 1 (by simp [baseFields]) (by omega) (by simp [baseFields])
  declared := m.memRead_field hm 2 (by simp [baseFields]) (by omega) (by simp [baseFields])
  dataOffset := m.memRead_field hm 4 (by simp [baseFields]) (by omega) (by simp [baseFields])
  headerSize := m.memRead_field hm 5 (by simp [baseFields]) (by omega) (by simp [baseFields])
  width := m.memRead_field hm 6 (by simp [baseFields]) (by omega) (by simp [baseFields])
  height := m.memRead_field hm 7 (by simp [baseFields]) (by omega) (by simp [baseFields])
  planes := m.memRead_field hm 8 (by simp [baseFields]) (by omega) (by simp [baseFields])
  depth := m.memRead_field hm 9 (by simp [baseFields]) (by omega) (by simp [baseFields])
  compression := m.memRead_field hm 10 (by simp [baseFields]) (by omega) (by simp [baseFields])
  rawBytes := m.memRead_field hm 11 (by simp [baseFields]) (by omega) (by simp [baseFields])
  palette := m.memRead_field hm 14 (by simp [baseFields]) (by omega) (by simp [baseFields])

/-- Memory that holds the base header and the extension record reads as the record's fields from byte 54. -/
theorem extension_of_fields {m : Memory} {a hdr w h d c raw magic : Nat} {rest : List Byte}
    (hm : ∀ k b, (fieldBytes (baseFields hdr w h d c raw ++ extensionFields magic) ++ rest)[k]? = some b →
      m.read (a + k) = b) (hg : magic < 2 ^ 32) : Extension m (a + 54) magic where
  magic := m.memRead_field hm 16 (by simp [baseFields, extensionFields]) (by omega) (by simp [baseFields, extensionFields])
  version := by
    rw [Nat.add_assoc]
    exact m.memRead_field hm 17 (by simp [baseFields, extensionFields]) (by omega) (by simp [baseFields, extensionFields])
  subType := by
    rw [Nat.add_assoc]
    exact m.memRead_field hm 19 (by simp [baseFields, extensionFields]) (by omega) (by simp [baseFields, extensionFields])
  mipCount := by
    rw [Nat.add_assoc]
    exact m.memRead_field hm 21 (by simp [baseFields, extensionFields]) (by omega) (by simp [baseFields, extensionFields])

/-! ## The parser's reading (R139) -/

/-- The header of a square power-of-two image passes the parser's checks. -/
theorem BaseHeader.ok {m : Memory} {a hdr w d c raw : Nat} (b : BaseHeader m a hdr w w d c raw) (hp : 0 < hdr)
    (h4 : 4 ≤ w) (hw : isPowerOfTwo w = true) : baseHeaderOk m a = true := by
  simp only [baseHeaderOk, b.signature1, b.signature2, b.declared, b.headerSize, b.width, b.height, b.planes, b.palette,
    hw, Bool.and_true, decide_eq_true_eq]
  exact ⟨trivial, trivial, by omega, trivial, trivial, h4, trivial, trivial⟩

/-- A 54-byte header parses to the format its depth and tag name (R139, first bullet). -/
theorem BaseHeader.containerFormat_plain {m : Memory} {a w d c raw : Nat} {p : Params} {f : PixelFormat}
    (b : BaseHeader m a 54 w w d c raw) (h4 : 4 ≤ w) (hw : isPowerOfTwo w = true) (hf : baseFormat p d c = some f) :
    containerFormat p m a = some (f, 54) := by
  simp [containerFormat, b.ok (by omega) h4 hw, b.depth, b.compression, hf, b.dataOffset, b.rawBytes, b.declared]

/-- A 74-byte header parses to the format its extension record leaves (R139, second and third bullets). -/
theorem BaseHeader.containerFormat_tagged {m : Memory} {a w d c raw : Nat} {p : Params} {f g : PixelFormat}
    (b : BaseHeader m a 74 w w d c raw) (h4 : 4 ≤ w) (hw : isPowerOfTwo w = true) (hf : baseFormat p d c = some f)
    (hg : extensionFormat p m (a + 54) f = some g) : containerFormat p m a = some (g, 74) := by
  simp [containerFormat, b.ok (by omega) h4 hw, b.depth, b.compression, hf, b.dataOffset, hg, b.rawBytes, b.declared]

theorem Extension.format_std32 {m : Memory} {a : Nat} {p : Params} (e : Extension m a p.fsMagic.toNat) :
    extensionFormat p m a .std32 = some .fsFull32 := by simp [extensionFormat, e.magic, e.version]

theorem Extension.format_dxt3 {m : Memory} {a : Nat} {p : Params} (e : Extension m a p.fsMagic.toNat) :
    extensionFormat p m a .dxt3 = some .dxt3 := by simp [extensionFormat, e.magic, e.version, e.subType]

/-- R139: read by the source's parser, the output of a supported EMIT parses back to the format it was emitted as, its
pixel data right after the header, `pixelBufferSize` is `rawsize(f)`, and an extension record's mip count is 0. That the
pixel data does not exceed the declared size is part of `containerFormat`. `FOURCC_DXT3` is a parameter (R4); a tag of 0 would mean uncompressed (R128), so
EMIT.DXT3 asks that it is not 0. -/
theorem emit_parses_back {i : Instr} (hi : i ∈ [Instr.emitStd24, .emitFs32, .emitDxt3]) {s : State}
    (hr : Ready (needOf i (s.latchFor i).N) (outOf i (s.latchFor i).N) (s.latchFor i) s.memSize)
    (hx : i = .emitDxt3 → s.params.fourccDxt3.toNat ≠ 0) :
    ∃ t, exec i s = .next t ∧
      containerFormat s.params t.mem (s.latchFor i).dst = some (i.fmt, hdrSize i.fmt) ∧
      t.mem.memRead ((s.latchFor i).dst + 34) 4 = rawSize (s.latchFor i).N i.fmt ∧
      (i ≠ .emitStd24 → t.mem.memRead ((s.latchFor i).dst + 68) 2 = 0) := by
  have hW : (s.latchFor i).W < 2 ^ 32 := (s.latchFor i).width.isLt
  have hp := (isPowerOfTwo_iff hW).mpr hr.size.powerOfTwo
  have hH : (s.latchFor i).H = (s.latchFor i).W := by simp [Latched.H, Latched.W, hr.size.square]
  have hcap := Nat.lt_of_le_of_lt hr.roomEnough (s.latchFor i).dstCap.isLt
  have h4 := hr.size.atLeastFour
  have hm : s.params.fsMagic.toNat < 2 ^ 32 := s.params.fsMagic.isLt
  have hf : s.params.fourccDxt3.toNat < 2 ^ 32 := s.params.fourccDxt3.isLt
  simp only [List.mem_cons, List.not_mem_nil, or_false] at hi
  rcases hi with rfl | rfl | rfl
  all_goals
    obtain ⟨t, ht, _, hb⟩ := exec_ready rfl hr
    refine ⟨t, ht, ?_⟩
    simp only [performOf, performEmitStd24, performEmitFs32, performEmitDxt3, baseHeader_eq, extensionRecord_eq,
      ← fieldBytes_append, hH] at hb
    simp only [outOf, Instr.op, Instr.fmt, hdrSize, rawSize] at hcap
  · have b := baseHeader_of_fields (gs := []) (by simpa only [List.append_nil] using hb) hcap hW hW (by omega) (by omega)
    exact ⟨b.containerFormat_plain h4 hp rfl, b.rawBytes, fun h => absurd rfl h⟩
  · have b := baseHeader_of_fields hb hcap hW hW (by omega) (by omega)
    have e := extension_of_fields hb hm
    exact ⟨b.containerFormat_tagged h4 hp rfl e.format_std32, b.rawBytes, fun _ => e.mipCount⟩
  · have b := baseHeader_of_fields hb hcap hW hW (by omega) hf
    have e := extension_of_fields hb hm
    exact ⟨b.containerFormat_tagged h4 hp (by simp [baseFormat, hx rfl]) e.format_dxt3, b.rawBytes, fun _ => e.mipCount⟩

end Sys2Proof.Machine
end

