-- ==== Sys2Proof/Tests/Slice0.lean ====
section
/-! SUPPORT. Tests: ill-formed terms that the static checks refuse, the decoding of every command word, one step per
command on the vectors of spec/95_test_vectors.md, and for every statement with hypotheses a concrete state and operands that
meet them. -/

namespace Sys2Proof.Tests

open Sys2Proof Sys2Proof.Machine

/-! ## Well-formedness: one ill-formed term for each check -/

theorem test_wf_refuses_reserved_bits : (cmdFields 0x00000101#32).wf = false := by decide
theorem test_wf_refuses_op_zero : (cmdFields 0x00000000#32).wf = false := by decide
theorem test_wf_refuses_op_four : (cmdFields 0x00000004#32).wf = false := by decide
theorem test_wf_refuses_fmt_ten : (cmdFields 0x000000A1#32).wf = false := by decide
theorem test_wf_accepts_word : (cmdFields 0x00000093#32).wf = true := by decide
theorem test_wf_refuses_byte_access : (HostLine.regWrite 1 4 0).wf = false := by decide
theorem test_wf_refuses_misaligned_access : (HostLine.regRead 4 6).wf = false := by decide
theorem test_wf_refuses_access_outside_window : (HostLine.regRead 4 256).wf = false := by decide
theorem test_wf_accepts_last_offset : (HostLine.regRead 4 252).wf = true := by decide

/-! ## Decoding: every command's word, bit by bit from R57, R58 and R59: `RSV` (24 bits), `FMT`, `OP` -/

theorem test_decode_decStd24 : decode (0#24 ++ 0b0000#4 ++ 0b0001#4) = .ok .decStd24 := by decide
theorem test_decode_decStd32 : decode (0#24 ++ 0b0001#4 ++ 0b0001#4) = .ok .decStd32 := by decide
theorem test_decode_decFs32 : decode (0#24 ++ 0b0010#4 ++ 0b0001#4) = .ok .decFs32 := by decide
theorem test_decode_decDxt1 : decode (0#24 ++ 0b0011#4 ++ 0b0001#4) = .ok .decDxt1 := by decide
theorem test_decode_decDxt1a : decode (0#24 ++ 0b0100#4 ++ 0b0001#4) = .ok .decDxt1a := by decide
theorem test_decode_decDxt3 : decode (0#24 ++ 0b0101#4 ++ 0b0001#4) = .ok .decDxt3 := by decide
theorem test_decode_decDxt5 : decode (0#24 ++ 0b0110#4 ++ 0b0001#4) = .ok .decDxt5 := by decide
theorem test_decode_decStd16 : decode (0#24 ++ 0b0111#4 ++ 0b0001#4) = .ok .decStd16 := by decide
theorem test_decode_decMask16 : decode (0#24 ++ 0b1000#4 ++ 0b0001#4) = .ok .decMask16 := by decide
theorem test_decode_decUnknown : decode (0#24 ++ 0b1001#4 ++ 0b0001#4) = .ok .decUnknown := by decide
theorem test_decode_encStd24 : decode (0#24 ++ 0b0000#4 ++ 0b0010#4) = .ok .encStd24 := by decide
theorem test_decode_encStd32 : decode (0#24 ++ 0b0001#4 ++ 0b0010#4) = .ok .encStd32 := by decide
theorem test_decode_encFs32 : decode (0#24 ++ 0b0010#4 ++ 0b0010#4) = .ok .encFs32 := by decide
theorem test_decode_encDxt1 : decode (0#24 ++ 0b0011#4 ++ 0b0010#4) = .ok .encDxt1 := by decide
theorem test_decode_encDxt1a : decode (0#24 ++ 0b0100#4 ++ 0b0010#4) = .ok .encDxt1a := by decide
theorem test_decode_encDxt3 : decode (0#24 ++ 0b0101#4 ++ 0b0010#4) = .ok .encDxt3 := by decide
theorem test_decode_encDxt5 : decode (0#24 ++ 0b0110#4 ++ 0b0010#4) = .ok .encDxt5 := by decide
theorem test_decode_encStd16 : decode (0#24 ++ 0b0111#4 ++ 0b0010#4) = .ok .encStd16 := by decide
theorem test_decode_encMask16 : decode (0#24 ++ 0b1000#4 ++ 0b0010#4) = .ok .encMask16 := by decide
theorem test_decode_encUnknown : decode (0#24 ++ 0b1001#4 ++ 0b0010#4) = .ok .encUnknown := by decide
theorem test_decode_emitStd24 : decode (0#24 ++ 0b0000#4 ++ 0b0011#4) = .ok .emitStd24 := by decide
theorem test_decode_emitStd32 : decode (0#24 ++ 0b0001#4 ++ 0b0011#4) = .ok .emitStd32 := by decide
theorem test_decode_emitFs32 : decode (0#24 ++ 0b0010#4 ++ 0b0011#4) = .ok .emitFs32 := by decide
theorem test_decode_emitDxt1 : decode (0#24 ++ 0b0011#4 ++ 0b0011#4) = .ok .emitDxt1 := by decide
theorem test_decode_emitDxt1a : decode (0#24 ++ 0b0100#4 ++ 0b0011#4) = .ok .emitDxt1a := by decide
theorem test_decode_emitDxt3 : decode (0#24 ++ 0b0101#4 ++ 0b0011#4) = .ok .emitDxt3 := by decide
theorem test_decode_emitDxt5 : decode (0#24 ++ 0b0110#4 ++ 0b0011#4) = .ok .emitDxt5 := by decide
theorem test_decode_emitStd16 : decode (0#24 ++ 0b0111#4 ++ 0b0011#4) = .ok .emitStd16 := by decide
theorem test_decode_emitMask16 : decode (0#24 ++ 0b1000#4 ++ 0b0011#4) = .ok .emitMask16 := by decide
theorem test_decode_emitUnknown : decode (0#24 ++ 0b1001#4 ++ 0b0011#4) = .ok .emitUnknown := by decide

theorem test_decode_reserved_bit : decode 0x80000001#32 = .error .reservedBits := by decide
theorem test_decode_all_ones : decode 0xFFFFFFFF#32 = .error .reservedBits := by decide
theorem test_table_word : decodeTableWord 32 0x52 = some .encDxt3 := by decide

/-! ## One step per command, on the vectors of spec/95 -/

/-- The byte list of a list of numbers. -/
def bytesOf (xs : List Nat) : List Byte := xs.map (BitVec.ofNat 8)

/-- Memory that holds the bytes from 0x100 up and nothing else. -/
def inputMemory (input : List Nat) : Memory := (bytesOf input).zipIdx.map fun p => (0x100 + p.2, p.1)

/-- The set-up of spec/95: a 4x4 image, input at 0x100, output at 0x200, `MEM_SIZE` 0x10000. -/
def image (i : Instr) (input : List Nat) : State :=
  { State.reset with
    srcAddr := 0x100
    srcLen := BitVec.ofNat 32 (needOf i 16)
    dstAddr := 0x200
    dstCap := 0x400
    width := 4
    height := 4
    mem := inputMemory input
    params := { memTop := 0xFFFF, fsMagic := 0x44332211, fourccDxt3 := 0x33545844 } }

/-- The command runs in one step to a successful completion with `len` in `DST_LEN`, and the output begins with
`want`. -/
def RunsTo (i : Instr) (s : State) (len : Nat) (want : List Nat) : Prop :=
  ∃ t, exec i s = .next t ∧ t.phase = .idle ∧ t.done = true ∧ t.dstLen.toNat = len ∧
    ∀ k b, (bytesOf want)[k]? = some b → t.mem.read (s.dstAddr.toNat + k) = b

/-- What the kernel evaluates for a test: the checks pass, and what the command performs begins with `want`. -/
def performs (i : Instr) (s : State) (len : Nat) (want : List Nat) : Bool :=
  check i (s.latchFor i) s.memSize == none && outOf i (s.latchFor i).N == len &&
    (performOf i (s.latchFor i) s.params s.mem).take want.length == bytesOf want

theorem runsTo_of_performs {i : Instr} {s : State} {len : Nat} {want : List Nat} (hs : s.phase = .idle)
    (h : performs i s len want = true) : RunsTo i s len want := by
  simp only [performs, Bool.and_eq_true, beq_iff_eq] at h
  obtain ⟨⟨hc, hl⟩, hp⟩ := h
  have hi := checkCommand_of_check_none hc
  obtain ⟨t, ht, hd, hb⟩ := exec_ready hi ((check_none_iff hi _ _).mp hc)
  refine ⟨t, ht, hd.idle, hd.done, hd.dstLen.trans hl, ?_⟩
  intro k b hk
  have hdst : (s.latchFor i).dst = s.dstAddr.toNat := by simp [State.latchFor, hs, State.latch, Latched.dst]
  rw [← hdst]
  refine hb k b ?_
  rw [← hp, List.getElem?_take] at hk
  split at hk
  · exact hk
  · cases hk

/-- The command runs in one step to an error `STATUS`, with `DST_LEN` 0 and memory unchanged. -/
def failsWith (i : Instr) (s : State) (status : Word) : Bool :=
  match exec i s with
  | .next t => t.statusWord == status && t.dstLen == 0 && t.mem == s.mem
  | _ => false

/-- The first texels are given, the rest repeat them: `n` copies. -/
def times (n : Nat) (xs : List Nat) : List Nat := (List.replicate n xs).flatten

/-- The state of a mask vector. -/
def masked (r g b a : Word) (input : List Nat) : State :=
  { image .decMask16 input with maskR := r, maskG := g, maskB := b, maskA := a }

/-- spec/95: U1; U2; U3; section 2.1: words 001F, 03E0, 7C00, 8000; section 2.1: word 5555. -/
theorem test_unpack_decode :
  RunsTo .decStd24 (image .decStd24 (times 16 [1, 2, 3])) 64 (times 2 [1, 2, 3, 255]) ∧
  RunsTo .decStd32 (image .decStd32 (times 16 [16, 32, 48, 64])) 64 (times 2 [16, 32, 48, 64]) ∧
  RunsTo .decFs32 (image .decFs32 (times 16 [0, 0, 255, 255])) 64 (times 2 [0, 0, 255, 255]) ∧
  RunsTo .decStd16 (image .decStd16 (times 4 [31, 0, 224, 3, 0, 124, 0, 128])) 64 [255, 0, 0, 255, 0, 255, 0, 255,
    0, 0, 255, 255, 0, 0, 0, 255] ∧
  RunsTo .decStd16 (image .decStd16 (times 16 [85, 85])) 64 (times 2 [172, 82, 172, 255]) :=
  ⟨runsTo_of_performs rfl (by decide +kernel), runsTo_of_performs rfl (by decide +kernel),
    runsTo_of_performs rfl (by decide +kernel), runsTo_of_performs rfl (by decide +kernel),
    runsTo_of_performs rfl (by decide +kernel)⟩

/-- spec/95: U4: the alpha byte is dropped; U5. -/
theorem test_unpack_encode :
  RunsTo .encStd24 (image .encStd24 (times 16 [0, 0, 255, 128])) 48 (times 2 [0, 0, 255]) ∧
  RunsTo .encFs32 (image .encFs32 (times 16 [1, 2, 3, 4])) 64 (times 2 [1, 2, 3, 4]) :=
  ⟨runsTo_of_performs rfl (by decide +kernel), runsTo_of_performs rfl (by decide +kernel)⟩

/-- spec/95: M12: 4-4-4-4, word 1234; M20: mask bits above bit 15, a zero mask, and the cumulative divisor. -/
theorem test_mask :
  RunsTo .decMask16 (masked 0xF00 0xF0 0xF 0xF000 (times 16 [0x34, 0x12])) 64 [4, 3, 2, 1] ∧
  RunsTo .decMask16 (masked 0 0x10000 0x1F 0xFFFF (times 16 [255, 255])) 64 [31, 0, 0, 0] :=
  ⟨runsTo_of_performs rfl (by decide +kernel), runsTo_of_performs rfl (by decide +kernel)⟩

/-- spec/95: D1; D2; D3; D5. -/
theorem test_dxt1 :
  RunsTo .decDxt1 (image .decDxt1 [0, 248, 31, 0, 228, 228, 228, 228]) 64 [0, 0, 255, 255, 255, 0, 0, 255, 85, 0,
    170, 255, 170, 0, 85, 255] ∧
  RunsTo .decDxt1 (image .decDxt1 [31, 0, 0, 248, 228, 228, 228, 228]) 64 [255, 0, 0, 255, 0, 0, 255, 255, 127, 0,
    127, 255, 0, 0, 0, 255] ∧
  RunsTo .decDxt1a (image .decDxt1a [31, 0, 0, 248, 228, 228, 228, 228]) 64 [255, 0, 0, 255, 0, 0, 255, 255, 127, 0,
    127, 255, 0, 0, 0, 0] ∧
  RunsTo .decDxt1a (image .decDxt1a [0, 248, 0, 248, 228, 228, 228, 228]) 64 [0, 0, 255, 255, 0, 0, 255, 255, 0, 0,
    255, 255, 0, 0, 0, 0] :=
  ⟨runsTo_of_performs rfl (by decide +kernel), runsTo_of_performs rfl (by decide +kernel),
    runsTo_of_performs rfl (by decide +kernel), runsTo_of_performs rfl (by decide +kernel)⟩

/-- spec/95: D9; D12; D13. -/
theorem test_dxt3_dxt5 :
  RunsTo .decDxt3 (image .decDxt3 [16, 50, 84, 118, 152, 186, 220, 254, 31, 0, 0, 248, 228, 228, 228, 228]) 64 [255,
    0, 0, 0, 0, 0, 255, 17, 170, 0, 85, 34, 85, 0, 170, 51, 255, 0, 0, 68] ∧
  RunsTo .decDxt5 (image .decDxt5 [100, 200, 136, 198, 250, 136, 198, 250, 0, 248, 0, 248, 0, 0, 0, 0]) 64 [0, 0,
    255, 100, 0, 0, 255, 200, 0, 0, 255, 120, 0, 0, 255, 140, 0, 0, 255, 160, 0, 0, 255, 180, 0, 0, 255, 0, 0, 0,
    255, 255] ∧
  RunsTo .decDxt5 (image .decDxt5 [255, 0, 136, 198, 250, 136, 198, 250, 0, 248, 0, 248, 0, 0, 0, 0]) 64 [0, 0, 255,
    255, 0, 0, 255, 0, 0, 0, 255, 218, 0, 0, 255, 182, 0, 0, 255, 145, 0, 0, 255, 109, 0, 0, 255, 72, 0, 0, 255, 36] :=
  ⟨runsTo_of_performs rfl (by decide +kernel), runsTo_of_performs rfl (by decide +kernel),
    runsTo_of_performs rfl (by decide +kernel)⟩

/-- spec/95: E7: the endpoints swap; E9: a zero red deviation counts as positive. -/
theorem test_encDxt3 :
  RunsTo .encDxt3 (image .encDxt3 (times 8 [100, 200, 100, 255] ++ times 8 [100, 0, 104, 255])) 16 [255, 255, 255,
    255, 255, 255, 255, 255, 44, 101, 12, 97, 0, 0, 85, 85] ∧
  RunsTo .encDxt3 (image .encDxt3 (times 8 [200, 0, 100, 255] ++ times 4 [0, 0, 50, 255] ++ times 4 [0, 0, 150,
    255])) 16 [255, 255, 255, 255, 255, 255, 255, 255, 16, 112, 8, 80, 0, 0, 85, 85] :=
  ⟨runsTo_of_performs rfl (by decide +kernel), runsTo_of_performs rfl (by decide +kernel)⟩

/-- spec/95: Z1; Z2, with the magic bytes 11 22 33 44; Z3. -/
theorem test_emit :
  RunsTo .emitStd24 (image .emitStd24 (times 16 [1, 2, 3])) 102 ([66, 77, 102, 0, 0, 0, 0, 0, 0, 0, 54, 0, 0, 0, 40,
    0, 0, 0, 4, 0, 0, 0, 4, 0, 0, 0, 1, 0, 24, 0, 0, 0, 0, 0, 48, 0, 0, 0] ++ times 16 [0] ++ [1, 2, 3]) ∧
  RunsTo .emitFs32 (image .emitFs32 (times 16 [1, 2, 3, 4])) 138 ([66, 77, 138, 0, 0, 0, 0, 0, 0, 0, 74, 0, 0, 0,
    40, 0, 0, 0, 4, 0, 0, 0, 4, 0, 0, 0, 1, 0, 32, 0, 0, 0, 0, 0, 64, 0, 0, 0] ++ times 16 [0] ++ [17, 34, 51, 68,
    20, 0, 0, 0, 0, 4, 0, 0, 0, 0, 0, 0, 0, 0, 0, 0] ++ [1, 2, 3, 4]) ∧
  RunsTo .emitDxt3 (image .emitDxt3 (times 16 [7])) 90 ([66, 77, 90, 0, 0, 0, 0, 0, 0, 0, 74, 0, 0, 0, 40, 0, 0, 0,
    4, 0, 0, 0, 4, 0, 0, 0, 1, 0, 32, 0, 68, 88, 84, 51, 16, 0, 0, 0] ++ times 16 [0] ++ [17, 34, 51, 68, 20, 0, 0,
    0, 0, 4, 0, 0, 0, 0, 0, 0, 0, 0, 0, 0] ++ [7, 7]) :=
  ⟨runsTo_of_performs rfl (by decide +kernel), runsTo_of_performs rfl (by decide +kernel),
    runsTo_of_performs rfl (by decide +kernel)⟩

/-- The header of spec/95 Z3, with the magic bytes 11 22 33 44, the given depth, tag and sub-type. -/
def taggedHeader (depth : Nat) (tag : List Nat) (subType : Nat) : Memory :=
  Memory.writeBytes [] 0 ((([66, 77, 90, 0, 0, 0, 0, 0, 0, 0, 74, 0, 0, 0, 40, 0, 0, 0, 4, 0, 0, 0, 4, 0, 0, 0, 1, 0,
    depth, 0] ++ tag ++ [16, 0, 0, 0] ++ times 16 [0] ++ [17, 34, 51, 68, 20, 0, 0, 0, 0, subType] ++ times 10 [0])).map u8)

/-- R139 and spec/90_conflicts.md C5: `Dxt3` needs sub-type 4, a tagged `Std32` is `FsFull32` whatever the sub-type, and
a tagged `Std24` is none of R139's formats. -/
theorem test_containerFormat :
    let p : Params := { memTop := 0xFFFF, fsMagic := 0x44332211, fourccDxt3 := 0x33545844 }
    containerFormat p (taggedHeader 32 [68, 88, 84, 51] 4) 0 = some (.dxt3, 74) ∧
      containerFormat p (taggedHeader 32 [68, 88, 84, 51] 5) 0 = none ∧
      containerFormat p (taggedHeader 32 [0, 0, 0, 0] 5) 0 = some (.fsFull32, 74) ∧
      containerFormat p (taggedHeader 24 [0, 0, 0, 0] 4) 0 = none := by decide

/-- The first block of spec/95 P3: the dimension checks come first. -/
theorem test_decStd24_after_reset : failsWith .decStd24 State.reset 0x406 = true := by decide
/-- spec/95 X5. -/
theorem test_decUnknown : failsWith .decUnknown State.reset 0x806 = true := by decide
/-- spec/95 X6, X7 and the list after E10. -/
theorem test_unsupportedTargets : (unsupportedTargets.all fun i => failsWith i State.reset 0x706) = true := by decide

/-! ## The checks at their boundaries (spec/95 section 2.6) -/

/-- The set-up of section 2.6, with one register changed. -/
def x (f : State → State) : State := f { image .decStd24 [] with dstAddr := 0x1000 }

theorem test_x8 : failsWith .decStd24 (x fun s => { s with width := 8 }) 0x306 = true := by decide
theorem test_x9 : failsWith .decStd24 (x fun s => { s with width := 6, height := 6 }) 0x406 = true := by decide
theorem test_x10 : failsWith .decStd24 (x fun s => { s with width := 2, height := 2 }) 0x406 = true := by decide
theorem test_x12 : failsWith .decStd24 (x fun s => { s with srcLen := 47 }) 0x606 = true := by decide
theorem test_x13 : failsWith .decStd24 (x fun s => { s with dstCap := 63 }) 0xA06 = true := by decide
theorem test_x14 : failsWith .decStd24 (x fun s => { s with dstAddr := 0xFFC1 }) 0xC06 = true := by decide
theorem test_x15 : failsWith .decStd24 (x fun s => { s with dstAddr := 0x12F }) 0xB06 = true := by decide
/-- X16: touching regions do not overlap. -/
theorem test_x16 : check .decStd24 ((x fun s => { s with dstAddr := 0x130 }).latchFor .decStd24) 0x10000 = none := by
  decide
/-- An illegal word in the engine (X2). -/
theorem test_x2 : (match engineTurn (State.reset.accept 0x101) with
    | .next t => t.statusWord == 0x906 && t.dstLen == 0
    | _ => false) = true := by decide

/-! ## The host's lines -/

/-- A dropped command (spec/95 section 2.7): `STATUS` reads 9 and `CMD` keeps the running word. -/
theorem test_dropped : (match hostLine (lineW .cmd 1) (State.reset.accept 0x31) with
    | .next t => t.readReg .status == 9 && t.readReg .cmd == 0x31
    | _ => false) = true := by decide
/-- Log 22: a line with no byte completes at an address outside memory; with one byte there it faults (log 12). -/
theorem test_line_without_byte :
    let s : State := { State.reset with params := { memTop := 0xFFFF, fsMagic := 0, fourccDxt3 := 0 } }
    hostLine (.memWrite 0x20000 []) s = .next s ∧ hostLine (.memRead 0x20000 0) s = .next (s.observe (.mem 0x20000 [])) ∧
      hostLine (.memRead 0x10000 1) s = .fault .hostAddressOutsideMemory := ⟨rfl, rfl, rfl⟩
/-- A write to `STATUS` is ignored (spec/95 section 2.8). -/
theorem test_status_read_only : hostLine (lineW .status 0xFFFFFFFF) State.reset = .next State.reset := by rfl
/-- The first instruction after reset is the word placed. -/
theorem test_withFetchWord : (match step (State.reset.withFetchWord 32 0x62) with
    | .next t => t.statusWord == 0x706 && t.cmd == 0x62
    | _ => false) = true := by decide

/-! ## Witnesses: for every statement with hypotheses, a concrete state and operands that meet them -/

/-- A 4x4 image whose every check passes at its boundary: `SRC_LEN` and `DST_CAP` are exact, the output region ends at the
top of memory and touches the input region. -/
def ready (i : Instr) : State :=
  { State.reset with
    srcAddr := BitVec.ofNat 32 (0x10000 - outOf i 16 - needOf i 16)
    srcLen := BitVec.ofNat 32 (needOf i 16)
    dstAddr := BitVec.ofNat 32 (0x10000 - outOf i 16)
    dstCap := BitVec.ofNat 32 (outOf i 16)
    width := 4
    height := 4
    maskB := 0x1F
    maskG := 0x3E0
    params := { memTop := 0xFFFF, fsMagic := 0, fourccDxt3 := 0x33545844 } }

/-- The same command while it runs. -/
def running (i : Instr) : State := (ready i).accept (encode i)

theorem ready_check : ∀ i ∈ supportedCommands, check i ((ready i).latchFor i) (ready i).memSize = none := by
  decide

/-- Every supported command is ready in its state, in `IDLE`. -/
theorem witness_ready {i : Instr} (hi : i ∈ supportedCommands) :
    Ready (needOf i ((ready i).latchFor i).N) (outOf i ((ready i).latchFor i).N) ((ready i).latchFor i)
      (ready i).memSize :=
  (check_none_iff (checkCommand_of_check_none (ready_check i hi)) _ _).mp (ready_check i hi)

/-- Every supported command is ready while it runs. -/
theorem witness_running {i : Instr} (hi : i ∈ supportedCommands) :
    Ready (needOf i ((running i).latchFor i).N) (outOf i ((running i).latchFor i).N) ((running i).latchFor i)
      (running i).memSize :=
  witness_ready hi

/-- The ready image has 16 texels: the bounds of the texel, byte and block quantifiers are met. -/
theorem witness_counts : ∀ i ∈ supportedCommands, ((ready i).latchFor i).N = 16 ∧ ((ready i).latchFor i).NB = 1 := by
  decide

theorem inv_ready (i : Instr) : Inv (ready i) := by
  constructor <;> simp [ready, State.reset, State.busy, Memory.wf]

theorem inv_running (i : Instr) : Inv (running i) := by
  constructor <;> simp [running, ready, State.reset, State.busy, State.accept, State.clearStatus, State.latch, Memory.wf]

theorem witness_StepRunsDecodedCommand : (running .encDxt3).phase = .busy ((running .encDxt3).latchFor .encDxt3) ∧
    ((running .encDxt3).hold = 0 ∨ (running .encDxt3).host = []) ∧
    decode ((running .encDxt3).latchFor .encDxt3).cmd = .ok .encDxt3 := by decide

/-- The state in which an illegal word runs. -/
def illegal : State := (ready .decStd24).accept 0x191

theorem witness_StepFailsIllegalWord : illegal.phase = .busy ((ready .decStd24).latch 0x191) ∧
    (illegal.hold = 0 ∨ illegal.host = []) ∧ decode ((ready .decStd24).latch 0x191).cmd = .error .reservedBits := by
  decide

/-- A running command with a host that waits, and two lines before it completes. -/
def waiting : State := { running .decStd24 with host := [.wait, .reset], hold := 2 }

theorem witness_StepRunsNextHostLine :
    ({ ready .decStd24 with host := [.wait] } : State).phase = .idle ∧
      waiting.phase = .busy ((ready .decStd24).latch 1) ∧ waiting.host = .wait :: [.reset] ∧ 0 < waiting.hold ∧
      (ready .decStd24).phase = .idle ∧ (ready .decStd24).host = [] := by decide

theorem witness_ExecInIdleAcceptsFirst : (ready .emitDxt3).phase = .idle := rfl

theorem witness_ParameterRegisterWrite : Reg.srcAddr ∈ parameterRegs ∧ Reg.maskA ∈ parameterRegs ∧
    Reg.status ≠ Reg.srcAddr := by decide

theorem witness_ReadOnlyRegisterWriteIgnored : Reg.status ∈ readOnlyRegs ∧ Reg.fsMagic ∈ readOnlyRegs := by decide

theorem witness_ReservedOffsets : (0x3C ≤ 0x3C ∧ 0x3C ≤ 0xFC ∧ 0x3C % 4 = 0) ∧ (0x3C ≤ 0xFC ∧ 0xFC ≤ 0xFC ∧ 0xFC % 4 = 0) := by
  decide

theorem witness_UndefinedRegisterAccessRefused :
    (255 < 256 ∧ ((2 ≠ 4 ∨ 255 % 4 ≠ 0))) ∧ (0 < 256 ∧ ((1 ≠ 4 ∨ 0 % 4 ≠ 0))) ∧ (253 < 256 ∧ ((4 ≠ 4 ∨ 253 % 4 ≠ 0))) ∧
      (252 < 256 ∧ (4 = 4 ∧ 252 % 4 = 0)) ∧ (0 < 256 ∧ (4 = 4 ∧ 0 % 4 = 0)) := by decide

theorem witness_CommandWriteAccepted : (ready .decStd24).phase = .idle := rfl

theorem witness_CommandWriteDropped : (running .decStd24).phase = .busy ((ready .decStd24).latch 1) := rfl

theorem witness_StatusLayout : Inv (running .decStd24) ∧ Inv (ready .decStd24) := ⟨inv_running _, inv_ready _⟩

theorem witness_StatusAfterCompletion : Inv (running .encFs32) ∧ Inv State.reset := by
  refine ⟨inv_running _, ?_⟩
  constructor <;> simp [State.reset, State.busy, Memory.wf]

theorem witness_ResetInIdle : (ready .decStd24).phase = .idle := rfl

/-- An abandoned command with an output region, an address inside it and one outside, and one without. -/
theorem witness_ResetWhileBusy : (running .encDxt3).runningOutput = some (0xFFF0, 16) ∧ 0xFFF0 ≤ 0xFFFF ∧
    0xFFFF < 0xFFF0 + 16 ∧ ¬ (0xFFF0 ≤ 0xFFEF ∧ 0xFFEF < 0xFFF0 + 16) ∧ illegal.runningOutput = none := by decide

theorem witness_FirstErrorReported : (ready .decStd24).latchFor .decStd24 = (ready .decStd24).latch 1 ∧
    illegal.phase = .busy ((ready .decStd24).latch 0x191) ∧
    decode ((ready .decStd24).latch 0x191).cmd = .error .reservedBits := by decide

theorem witness_FailedCommandIsPrecise :
    check .decStd24 (State.reset.latchFor .decStd24) State.reset.memSize = some .invalidDimensions ∧
      check .encDxt5 ((running .encDxt5).latchFor .encDxt5) (running .encDxt5).memSize = some .unsupportedTarget ∧
      Inv (running .encDxt5) ∧ State.reset.phase = .idle ∧ (State.reset.start .decStd24).drop = false ∧
      illegal.phase = .busy ((ready .decStd24).latch 0x191) ∧ illegal.drop = false ∧
      decode ((ready .decStd24).latch 0x191).cmd = .error .reservedBits :=
  ⟨by decide, by decide, inv_running _, rfl, rfl, rfl, rfl, by decide⟩

theorem witness_CommandsThatRaise : Inv (running .decUnknown) ∧ Inv (ready .emitUnknown) := ⟨inv_running _, inv_ready _⟩

theorem witness_DecStd24Result : ∃ l, (ready .decStd24).latchFor .decStd24 = l ∧
    Ready (3 * l.N) (4 * l.N) l (ready .decStd24).memSize ∧ 15 < l.N :=
  ⟨_, rfl, witness_ready (i := .decStd24) (by decide), by decide⟩

theorem witness_IdentityCopyResult : ∀ i ∈ [Instr.decStd32, .decFs32, .encFs32], ∃ l, (ready i).latchFor i = l ∧
    Ready (4 * l.N) (4 * l.N) l (ready i).memSize ∧ 63 < 4 * l.N := by
  intro i hi
  simp only [List.mem_cons, List.not_mem_nil, or_false] at hi
  rcases hi with rfl | rfl | rfl
  · exact ⟨_, rfl, witness_ready (i := .decStd32) (by decide), by decide⟩
  · exact ⟨_, rfl, witness_ready (i := .decFs32) (by decide), by decide⟩
  · exact ⟨_, rfl, witness_ready (i := .encFs32) (by decide), by decide⟩

theorem witness_DecStd16Result : ∃ l, (ready .decStd16).latchFor .decStd16 = l ∧
    Ready (2 * l.N) (4 * l.N) l (ready .decStd16).memSize ∧ 15 < l.N :=
  ⟨_, rfl, witness_ready (i := .decStd16) (by decide), by decide⟩

theorem witness_EncStd24Result : ∃ l, (ready .encStd24).latchFor .encStd24 = l ∧
    Ready (4 * l.N) (3 * l.N) l (ready .encStd24).memSize ∧ 15 < l.N :=
  ⟨_, rfl, witness_ready (i := .encStd24) (by decide), by decide⟩

/-- The state in which the output of the first command is encoded again. -/
def again (s t : State) : State := { s with mem := t.mem, srcAddr := s.dstAddr, srcLen := 64, dstAddr := 0x100, dstCap := 48 }

theorem witness_Std24RoundTrip : ∃ (s t u : State) (l l' : Latched), s.latchFor .decStd24 = l ∧
    Ready (3 * l.N) (4 * l.N) l s.memSize ∧ exec .decStd24 s = .next t ∧ u.mem = t.mem ∧ u.latchFor .encStd24 = l' ∧
    l'.src = l.dst ∧ l'.N = l.N ∧ Ready (4 * l'.N) (3 * l'.N) l' u.memSize := by
  obtain ⟨t, ht, _⟩ := exec_ready (i := .decStd24) rfl (witness_ready (i := .decStd24) (by decide))
  have hc : check .encStd24 ((again (ready .decStd24) (ready .decStd24)).latchFor .encStd24)
      (again (ready .decStd24) (ready .decStd24)).memSize = none := by decide
  exact ⟨_, t, again (ready .decStd24) t, _, _, rfl, witness_ready (i := .decStd24) (by decide), ht, rfl, rfl, rfl, rfl,
    (check_none_iff rfl _ _).mp hc⟩

theorem witness_DecMask16Result : ∃ l, (ready .decMask16).latchFor .decMask16 = l ∧
    Ready (2 * l.N) (4 * l.N) l (ready .decMask16).memSize ∧ 15 < l.N ∧ l.maskB.toNat ≠ 0 ∧ l.maskR.toNat = 0 :=
  ⟨_, rfl, witness_ready (i := .decMask16) (by decide), by decide, by decide, by decide⟩

/-- The mask image with every mask 0. -/
def zeroMasks : State := { ready .decMask16 with maskB := 0, maskG := 0 }

theorem witness_ZeroMasks : ∃ t l, zeroMasks.latchFor .decMask16 = l ∧ Ready (2 * l.N) (4 * l.N) l zeroMasks.memSize ∧
    exec .decMask16 zeroMasks = .next t ∧ 15 < l.N ∧ l.maskA = 0 ∧ l.maskB = 0 ∧ l.maskG = 0 ∧ l.maskR = 0 := by
  have hc : check .decMask16 (zeroMasks.latchFor .decMask16) zeroMasks.memSize = none := by decide
  have hr := (check_none_iff rfl _ _).mp hc
  obtain ⟨t, ht, _⟩ := exec_ready (i := .decMask16) rfl hr
  exact ⟨t, _, rfl, hr, ht, by decide, by decide, by decide, by decide, by decide⟩

theorem witness_ContiguousMasksShift : 0 < 5 ∧ 0 < 6 ∧ 0 < 1 := by decide

theorem witness_BlockMappingBijective : 0 < 2 ∧ 3 < 2 * 2 ∧ 15 < 16 ∧ 63 < 4 * 2 * (4 * 2) ∧
    texelIndex (4 * 2) 3 15 = texelIndex (4 * 2) 3 15 := by decide

theorem witness_ColourPaletteEntries : 65535 < 65536 ∧ (ColourMode.four = .four ∨ 65535 < 65535) ∧
    (ColourMode.dxt1 = .four ∨ 0 < 65535) ∧ ¬ (ColourMode.dxt1a = .four ∨ 65535 < 65535) := by decide

theorem witness_AlphaPaletteEntries : 255 ≤ 255 ∧ 0 < 255 ∧ (255 ≤ 255 ∧ 1 ≤ 6 ∧ 6 ≤ 6) ∧ (0 ≤ 0 ∧ 1 ≤ 4 ∧ 4 ≤ 4) ∧ 7 ≤ 7 := by
  decide

theorem witness_DecDxt1Result : ∀ i ∈ [Instr.decDxt1, .decDxt1a], ∃ l, (ready i).latchFor i = l ∧
    Ready (l.N / 2) (4 * l.N) l (ready i).memSize ∧ 0 < l.NB := by
  intro i hi
  simp only [List.mem_cons, List.not_mem_nil, or_false] at hi
  rcases hi with rfl | rfl
  · exact ⟨_, rfl, witness_ready (i := .decDxt1) (by decide), by decide⟩
  · exact ⟨_, rfl, witness_ready (i := .decDxt1a) (by decide), by decide⟩

theorem witness_DecDxt3Result : ∃ l, (ready .decDxt3).latchFor .decDxt3 = l ∧
    Ready l.N (4 * l.N) l (ready .decDxt3).memSize ∧ 0 < l.NB :=
  ⟨_, rfl, witness_ready (i := .decDxt3) (by decide), by decide⟩

theorem witness_DecDxt5Result : ∃ l, (ready .decDxt5).latchFor .decDxt5 = l ∧
    Ready l.N (4 * l.N) l (ready .decDxt5).memSize ∧ 0 < l.NB :=
  ⟨_, rfl, witness_ready (i := .decDxt5) (by decide), by decide⟩

theorem witness_EncDxt3Result : ∃ l, (ready .encDxt3).latchFor .encDxt3 = l ∧
    Ready (4 * l.N) l.N l (ready .encDxt3).memSize ∧ 0 < l.NB ∧
    ∃ x, (gather l (ready .encDxt3).mem 0)[15]? = some x :=
  ⟨_, rfl, witness_ready (i := .encDxt3) (by decide), by decide, ⟨_, rfl⟩⟩

theorem witness_GatherReadsBlock : ∃ a : Nat, a = 0x100 + 4 * texelIndex 4 0 15 ∧ 15 < 16 := ⟨_, rfl, by decide⟩

/-- The texels of spec/95 E3: red in columns 0 and 1, blue in columns 2 and 3. -/
def redBlue : List Texel := (List.replicate 4 [⟨0, 0, 255, 255⟩, ⟨0, 0, 255, 255⟩, ⟨255, 0, 0, 128⟩, ⟨255, 0, 0, 128⟩]).flatten

theorem witness_EndpointFormulas : redBlue.length = 16 ∧ ∀ x ∈ redBlue, x.b ≤ 255 ∧ x.g ≤ 255 ∧ x.r ≤ 255 := by decide

/-- spec/95 E3: the averages, the deviations and the packed colours. -/
theorem test_redBlue : average Texel.b redBlue = 127 ∧ deviation Texel.b redBlue = -85 ∧ deviation Texel.r redBlue = 85 ∧
    blockColour0 redBlue = 0xD005 ∧ blockColour1 redBlue = 0x281A := by decide

theorem witness_EncodedColoursOrdered : blockColour0 redBlue ≠ blockColour1 redBlue ∧ (⟨255, 0, 255⟩ : Colour).b ≤ 255 ∧
    (⟨255, 0, 255⟩ : Colour).g ≤ 255 ∧ (⟨255, 0, 255⟩ : Colour).r ≤ 255 := by decide

/-- The greatest squared distance, from black to white, beside 0. -/
theorem witness_DistanceComparesAsSquares : ∃ (t p q : Texel) (x y : Int),
    (∀ u ∈ [t, p, q], u.b ≤ 255 ∧ u.g ≤ 255 ∧ u.r ≤ 255) ∧
    x = ((t.b : Int) - p.b) ^ 2 + ((t.g : Int) - p.g) ^ 2 + ((t.r : Int) - p.r) ^ 2 ∧
    y = ((t.b : Int) - q.b) ^ 2 + ((t.g : Int) - q.g) ^ 2 + ((t.r : Int) - q.r) ^ 2 ∧ x = 0 ∧ y = 195075 :=
  ⟨⟨0, 0, 0, 0⟩, ⟨0, 0, 0, 255⟩, ⟨255, 255, 255, 255⟩, 0, 195075, by decide, by decide, by decide, rfl, rfl⟩

/-- spec/95 E6: the distances 363730 and 1789804 of texel 15 to entries 0 and 1. -/
theorem test_colourDist : colourDist ⟨209, 209, 209, 255⟩ ⟨230, 230, 230, 255⟩ = 363730 ∧
    colourDist ⟨209, 209, 209, 255⟩ ⟨106, 105, 106, 255⟩ = 1789804 := by decide

theorem witness_MemReadLittleEndian : 0 < 2 ^ (8 * 0) ∧ 0x33545844 < 2 ^ (8 * 4) ∧ 3 < 4 := by decide

theorem witness_SelectedIndexLeastAndLowest : selectIndex (fun j => 3 - j) = 3 ∧ 2 < selectIndex (fun j => 3 - j) := by
  decide

theorem witness_EmitStd24Result : ∃ l, (ready .emitStd24).latchFor .emitStd24 = l ∧
    Ready (3 * l.N) (54 + 3 * l.N) l (ready .emitStd24).memSize ∧ 47 < 3 * l.N :=
  ⟨_, rfl, witness_ready (i := .emitStd24) (by decide), by decide⟩

theorem witness_EmitTaggedResult : (∃ l, (ready .emitFs32).latchFor .emitFs32 = l ∧
      Ready (4 * l.N) (74 + 4 * l.N) l (ready .emitFs32).memSize) ∧
    ∃ l, (ready .emitDxt3).latchFor .emitDxt3 = l ∧ Ready (1 * l.N) (74 + 1 * l.N) l (ready .emitDxt3).memSize :=
  ⟨⟨_, rfl, witness_ready (i := .emitFs32) (by decide)⟩, ⟨_, rfl, by
    rw [Nat.one_mul]
    exact witness_ready (i := .emitDxt3) (by decide)⟩⟩

/-- The hypotheses of `emit_parses_back` (R139) are met. -/
theorem witness_emit_parses_back : ∃ t, exec .emitDxt3 (ready .emitDxt3) = .next t ∧
    containerFormat (ready .emitDxt3).params t.mem ((ready .emitDxt3).latchFor .emitDxt3).dst = some (.dxt3, 74) := by
  obtain ⟨t, ht, h, _⟩ := emit_parses_back (by decide) (witness_ready (i := .emitDxt3) (by decide)) (by decide)
  exact ⟨t, ht, h⟩

/-- The last byte of memory in `IDLE`; a byte below the regions while a command runs. -/
theorem witness_HostMemoryWrite : 0xFFFF + [(7 : Byte)].length ≤ (ready .encDxt3).memSize ∧
    (ready .encDxt3).runningRegions = none ∧ 0xFFAF + [(7 : Byte)].length ≤ (running .encDxt3).memSize ∧
    (running .encDxt3).runningRegions = some ⟨0xFFB0, 64, 0xFFF0, 16⟩ ∧
    (⟨0xFFB0, 64, 0xFFF0, 16⟩ : Regions).contains (0xFFAF + 0) = false := by decide

/-- The first byte of the input region and the last byte of the output region. -/
theorem witness_HostWriteToRunningRegionRefused : ∃ l, (running .encDxt3).phase = .busy l ∧ decode l.cmd = .ok .encDxt3 ∧
    Instr.encDxt3 ∈ supportedCommands ∧ GoodSize l ∧ 0xFFFF + 1 ≤ (running .encDxt3).memSize ∧
    (l.src ≤ 0xFFB0 ∧ 0xFFB0 < l.src + needOf .encDxt3 l.N) ∧ (l.dst ≤ 0xFFFF ∧ 0xFFFF < l.dst + outOf .encDxt3 l.N) :=
  ⟨_, rfl, by decide, by decide, (witness_running (i := .encDxt3) (by decide)).size, by decide, by decide,
    by decide⟩

theorem witness_HostMemoryRead : 0xFFF0 + 16 ≤ (running .encDxt3).memSize ∧
    (running .encDxt3).runningOutput = some (0xFFF0, 16) ∧ 0xFFF0 + 16 ≤ (ready .encDxt3).memSize := by decide

theorem witness_RunningRegionsStable : ∃ t l r, waiting.phase = .busy l ∧ step waiting = .next t ∧ t.phase = .busy l ∧
    l.regions = some r ∧ r.contains r.src = true :=
  ⟨_, _, ⟨0xFF90, 48, 0xFFC0, 64⟩, rfl, rfl, rfl, by decide, by decide⟩

/-- Two states that differ in a byte outside the input region. -/
theorem witness_OutputDependsOnInputOnly : ∃ (s s' : State) (l : Latched), Instr.encDxt3 ∈ supportedCommands ∧
    s.latchFor .encDxt3 = l ∧ s'.latchFor .encDxt3 = l ∧ s'.params = s.params ∧
    Ready (needOf .encDxt3 l.N) (outOf .encDxt3 l.N) l s.memSize ∧ s'.mem ≠ s.mem ∧
    ∀ a, l.src ≤ a → a < l.src + needOf .encDxt3 l.N → s'.mem.read a = s.mem.read a := by
  refine ⟨ready .encDxt3, { ready .encDxt3 with mem := Memory.write [] 5 9 }, _, by decide, rfl, rfl, rfl,
    witness_ready (by decide), by decide, ?_⟩
  intro a ha _
  have hs : ((ready .encDxt3).latchFor .encDxt3).src = 0xFFB0 := by decide
  rw [hs] at ha
  exact Memory.read_write_ne _ _ (by omega)

theorem witness_ParameterWriteMissesRunningCommand : (running .decMask16).phase = .busy ((ready .decMask16).latch 0x81) ∧
    Reg.maskB ∈ parameterRegs := by decide

theorem witness_MasksReadByMask16Only : Instr.decStd16 ≠ .decMask16 := by decide

theorem witness_WaitTerminates : waiting.phase = .busy ((ready .decStd24).latch 1) ∧ waiting.host = .wait :: [.reset] := by
  decide

theorem witness_StepKeepsInv : ∃ t, Inv (running .encDxt5) ∧ step (running .encDxt5) = .next t ∧ t.phase = .idle :=
  ⟨_, inv_running _, rfl, rfl⟩

theorem witness_BusyWrittenOnlyByTheseEvents :
    (∃ t, step { ready .decStd24 with host := [lineCmd .decStd24] } = .next t ∧ (ready .decStd24).busy = false ∧
      t.busy = true) ∧
    ∃ t, step (running .encDxt5) = .next t ∧ (running .encDxt5).busy = true ∧ t.busy = false :=
  ⟨⟨_, rfl, rfl, rfl⟩, ⟨_, rfl, rfl, rfl⟩⟩

theorem witness_StepKeepsParameters : ∃ t, step (running .encDxt5) = .next t := ⟨_, rfl⟩

end Sys2Proof.Tests
end

section
/-! SUPPORT. The bytes of a little-endian integer, `MemRead` as a sum over them (R7, R42), and the frame of a step on the
parameters (R4, R24, R25). -/

namespace Sys2Proof.Machine

/-! ## Little-endian integers (R7, R42) -/

@[simp] theorem u8_toNat (v : Nat) : (u8 v).toNat = v % 256 := BitVec.toNat_ofNat v 8

/-- The bound `2^(8n)` as it stands in R7, and as `Laws/Memory` writes it. -/
theorem two_pow_eight_mul (n : Nat) : 2 ^ (8 * n) = 256 ^ n := Nat.pow_mul 2 8 n

/-- Byte `k` of the little-endian bytes of `v` is `v`'s bits `8k+7:8k`. -/
theorem leBytes_getElem {n k : Nat} (v : Nat) (h : k < (leBytes n v).length) :
    (leBytes n v)[k] = u8 (v / 256 ^ k) := by
  induction n generalizing v k with
  | zero => simp at h
  | succ n ih =>
    cases k with
    | zero => simp [leBytes]
    | succ k =>
      have hk : k < (leBytes n (v / 256)).length := by simpa using h
      calc (leBytes (n + 1) v)[k + 1] = (leBytes n (v / 256))[k] := rfl
        _ = u8 (v / 256 / 256 ^ k) := ih (v / 256) hk
        _ = u8 (v / 256 ^ (k + 1)) := by rw [Nat.div_div_eq_div_mul, Nat.pow_succ']

/-- `MemRead` is the sum of the bytes it reads, each with the weight of its place. -/
theorem Memory.memRead_eq_sum (m : Memory) (a n : Nat) :
    m.memRead a n = ((List.range n).map fun k => (m.read (a + k)).toNat * 256 ^ k).sum := by
  induction n generalizing a with
  | zero => rfl
  | succ n ih =>
    have shift : ∀ k, (m.read (a + (k + 1))).toNat * 256 ^ (k + 1) = 256 * ((m.read (a + 1 + k)).toNat * 256 ^ k) :=
      fun k => by rw [show a + (k + 1) = a + 1 + k by omega, Nat.pow_succ']; ring
    rw [Memory.memRead_succ, ih, List.range_succ_eq_map, ← List.sum_map_mul_left]
    simp [Function.comp_def, shift]

/-- A little-endian write puts byte `k` of the integer at `a + k`. -/
theorem Memory.read_writeBytes_leBytes (m : Memory) (a v : Nat) {n k : Nat} (hk : k < n) :
    (m.writeBytes a (leBytes n v)).read (a + k) = u8 (v / 256 ^ k) := by
  have hl : k < (leBytes n v).length := by simpa using hk
  rw [Memory.read_writeBytes_in m a _ hl, leBytes_getElem]

/-- A little-endian read of what a little-endian write of the same width wrote gives the integer back. -/
theorem Memory.memRead_writeBytes_leBytes (m : Memory) (a : Nat) {n v : Nat} (hv : v < 256 ^ n) :
    (m.writeBytes a (leBytes n v)).memRead a n = v := by
  refine Memory.memRead_of_leBytes _ n hv fun k b hk => ?_
  obtain ⟨hlt, rfl⟩ := List.getElem?_eq_some_iff.mp hk
  exact Memory.read_writeBytes_in m a _ hlt

/-! ## The parameters (R4, R24, R25) -/

/-- The two constant registers show two of the parameters (R24, R25). -/
@[simp] theorem State.readReg_fourccDxt3 (s : State) : s.readReg .fourccDxt3 = s.params.fourccDxt3 := rfl
@[simp] theorem State.readReg_fsMagic (s : State) : s.readReg .fsMagic = s.params.fsMagic := rfl

@[simp] theorem State.writeCmd_params (s : State) (v : Word) : (s.writeCmd v).params = s.params := by
  cases h : s.phase with
  | idle => rw [State.writeCmd_idle h, State.accept_params]
  | busy l => rw [State.writeCmd_busy h]

@[simp] theorem State.writeOffset_params (s : State) (off : Nat) (v : Word) : (s.writeOffset off v).params = s.params := by
  rcases writeOffset_cases s off v with ⟨_, hw⟩ | ⟨_, _, _, _, hp⟩
  · rw [hw, State.writeCmd_params]
  · exact hp

/-- The engine's turn keeps the parameters: it completes a command with an error or with its output, or does nothing. -/
theorem engineTurn_params {s t : State} (h : engineTurn s = .next t) : t.params = s.params := by
  cases hp : s.phase with
  | idle =>
    rw [engineTurn_idle hp] at h
    cases h; rfl
  | busy l =>
    rcases engineTurn_cases hp with ⟨e, _, he⟩ | ⟨out, bs, _, _, _, _, he⟩
    · rw [he] at h
      cases h; rfl
    · rw [he] at h
      cases h; rfl

/-- No host line changes the parameters, a reset included (R156). -/
theorem hostLine_params {ln : HostLine} {s t : State} (h : hostLine ln s = .next t) : t.params = s.params := by
  cases ln with
  | regWrite size off v =>
    obtain ⟨_, rfl⟩ := hostRegWrite_next h
    exact State.writeOffset_params s off v
  | regRead size off =>
    obtain ⟨_, rfl⟩ := hostRegRead_next h
    rfl
  | memWrite a bs =>
    obtain ⟨_, _, rfl⟩ := hostMemWrite_next h
    rfl
  | memRead a n =>
    obtain ⟨_, rfl⟩ := hostMemRead_next h
    rfl
  | wait =>
    rcases hostWait_next h with ⟨_, rfl⟩ | ⟨_, rfl⟩
    · rfl
    · rfl
  | reset =>
    cases h; rfl

theorem step_params {s t : State} (h : step s = .next t) : t.params = s.params := by
  rcases step_cases s with ⟨_, he⟩ | ⟨_, _, he⟩ | ⟨ln, rest, hold, _, he⟩
  · exact engineTurn_params (he ▸ h)
  · rw [he] at h
    cases h; rfl
  · exact hostLine_params (s := { s with hold := hold, host := rest }) (he ▸ h)

/-! ## The obligations -/

/-- Settles O44: `MemRead` as a sum by induction on the number of bytes, and the byte a little-endian write puts at each
place. -/
theorem memReadLittleEndian : Obligations.MemReadLittleEndian := by
  intro m a n
  simp only [two_pow_eight_mul]
  refine ⟨m.memRead_eq_sum a n, m.memRead_lt a n, fun v hv => ⟨m.memRead_writeBytes_leBytes a hv, fun k hk => ?_⟩⟩
  rw [m.read_writeBytes_leBytes a v hk, u8_toNat]

/-- Settles O60: each kind of step (the engine's turn, an idle machine, a host line) keeps the parameters, and the two
constant registers are read from them. -/
theorem stepKeepsParameters : Obligations.StepKeepsParameters := by
  intro s t h
  have hp : t.params = s.params := step_params h
  exact ⟨hp, by simp [hp], by simp [hp]⟩

end Sys2Proof.Machine
end

section
/-! SUPPORT. The register window and `STATUS` by lemmas (R14 to R17, R26, R27), the state a reset leaves (R38, R156), the
commutation of a command with what it does not read (R23, R31, R161, R165), what a step does to `BUSY` (R28) and the
invariant of the machine. -/

namespace Sys2Proof.Machine

/-! ## The register window (R14 to R17) -/

/-- The offset table has no other entry than a register at its own offset (R14). -/
theorem eq_regOffset_of_regAt {off : Nat} {r : Reg} (h : regAt off = some r) : off = regOffset r := by
  unfold regAt at h
  split at h <;> cases h <;> rfl

theorem regOffset_le (r : Reg) : regOffset r ≤ 0x38 := by cases r <;> decide

/-- From `0x3C` up every offset is reserved (R16). -/
theorem regAt_reserved {off : Nat} (h : 0x3C ≤ off) : regAt off = none := by
  cases hr : regAt off with
  | none => rfl
  | some r =>
    have h₁ := eq_regOffset_of_regAt hr
    have h₂ := regOffset_le r
    omega

theorem regAccessOk_iff (size off : Nat) : regAccessOk size off = true ↔ size = 4 ∧ off % 4 = 0 ∧ off < 256 := by
  simp only [regAccessOk, Bool.and_eq_true, beq_iff_eq, decide_eq_true_eq, and_assoc]
  rfl

theorem hostLine_regWrite {size off : Nat} (h : regAccessOk size off = true) (v : Word) (s : State) :
    hostLine (.regWrite size off v) s = .next (s.writeOffset off v) := if_pos h

theorem hostLine_regRead {size off : Nat} (h : regAccessOk size off = true) (s : State) :
    hostLine (.regRead size off) s = .next (s.observe (.reg off (s.readOffset off))) := if_pos h

@[simp] theorem State.writeOffset_regOffset (s : State) (r : Reg) (v : Word) :
    s.writeOffset (regOffset r) v = s.writeReg r v := by
  simp [State.writeOffset, regAt_regOffset]

@[simp] theorem State.readOffset_regOffset (s : State) (r : Reg) : s.readOffset (regOffset r) = s.readReg r := by
  simp [State.readOffset, regAt_regOffset]

/-- `W REG, value` (R66) is the write of the register. -/
theorem hostLine_lineW (r : Reg) (v : Word) (s : State) : hostLine (lineW r v) s = .next (s.writeReg r v) := by
  rw [lineW, hostLine_regWrite (regOffset_ok r), State.writeOffset_regOffset]

/-- `R REG` (R66) shows the register's value. -/
theorem hostLine_lineR (r : Reg) (s : State) :
    hostLine (lineR r) s = .next (s.observe (.reg (regOffset r) (s.readReg r))) := by
  rw [lineR, hostLine_regRead (regOffset_ok r), State.readOffset_regOffset]

theorem ne_cmd_of_mem_parameterRegs {r : Reg} (hr : r ∈ parameterRegs) : r ≠ .cmd := by
  rintro rfl; exact absurd hr (by decide)

/-- What a register reads after a write to a parameter register: the value written there, its old value elsewhere
(R18 to R23). -/
theorem State.readReg_writeReg {r : Reg} (hr : r ∈ parameterRegs) (s : State) (v : Word) (r' : Reg) :
    (s.writeReg r v).readReg r' = if r' = r then v else s.readReg r' := by
  fin_cases hr <;> cases r' <;> rfl

/-- A read-only register ignores a write (R17). -/
theorem State.writeReg_readOnly {r : Reg} (hr : r ∈ readOnlyRegs) (s : State) (v : Word) : s.writeReg r v = s := by
  fin_cases hr <;> rfl

/-! ## The layout of STATUS (R27) -/

/-- Concatenation puts the left word above the right one. -/
theorem toNat_append_eq_add {m n : Nat} (x : BitVec m) (y : BitVec n) :
    (x ++ y).toNat = 2 ^ n * x.toNat + y.toNat := by
  rw [BitVec.toNat_append, ← Nat.shiftLeft_add_eq_or_of_lt y.isLt, Nat.shiftLeft_eq, Nat.mul_comm]

theorem getLsbD_eq_of_toNat {w k : Nat} {x : BitVec w} {b : Bool} (h : x.toNat / 2 ^ k % 2 = b.toNat) :
    x.getLsbD k = b := by
  rw [← BitVec.testBit_toNat, Nat.testBit_eq_decide_div_mod_eq, h]
  cases b <;> rfl

theorem extractLsb'_eq_of_toNat {w lo n : Nat} {x : BitVec w} {y : BitVec n}
    (h : x.toNat / 2 ^ lo % 2 ^ n = y.toNat) : x.extractLsb' lo n = y := by
  apply BitVec.eq_of_toNat_eq
  rw [BitVec.extractLsb'_toNat, Nat.shiftRight_eq_div_pow, h]

/-- `STATUS` as a number: each field at its place. -/
theorem State.statusWord_toNat (s : State) :
    s.statusWord.toNat =
      s.busy.toNat + 2 * s.done.toNat + 4 * s.err.toNat + 8 * s.drop.toNat + 256 * s.errCode.toNat := by
  unfold State.statusWord
  repeat rw [toNat_append_eq_add]
  simp only [BitVec.toNat_ofBool, BitVec.toNat_ofNat]
  omega

theorem State.statusFields_le (s : State) :
    s.busy.toNat ≤ 1 ∧ s.done.toNat ≤ 1 ∧ s.err.toNat ≤ 1 ∧ s.drop.toNat ≤ 1 ∧ s.errCode.toNat ≤ 15 :=
  ⟨s.busy.toNat_le, s.done.toNat_le, s.err.toNat_le, s.drop.toNat_le, Nat.le_of_lt_succ s.errCode.isLt⟩

theorem State.statusWord_busy (s : State) : s.statusWord.getLsbD 0 = s.busy :=
  getLsbD_eq_of_toNat (by have := s.statusFields_le; rw [s.statusWord_toNat]; omega)

theorem State.statusWord_done (s : State) : s.statusWord.getLsbD 1 = s.done :=
  getLsbD_eq_of_toNat (by have := s.statusFields_le; rw [s.statusWord_toNat]; omega)

theorem State.statusWord_err (s : State) : s.statusWord.getLsbD 2 = s.err :=
  getLsbD_eq_of_toNat (by have := s.statusFields_le; rw [s.statusWord_toNat]; omega)

theorem State.statusWord_drop (s : State) : s.statusWord.getLsbD 3 = s.drop :=
  getLsbD_eq_of_toNat (by have := s.statusFields_le; rw [s.statusWord_toNat]; omega)

theorem State.statusWord_errCode (s : State) : s.statusWord.extractLsb' 8 4 = s.errCode :=
  extractLsb'_eq_of_toNat (by have := s.statusFields_le; rw [s.statusWord_toNat]; omega)

theorem State.statusWord_lowReserved (s : State) : s.statusWord.extractLsb' 4 4 = 0 :=
  extractLsb'_eq_of_toNat (by have := s.statusFields_le; rw [s.statusWord_toNat]; change _ = 0; omega)

theorem State.statusWord_highReserved (s : State) : s.statusWord.extractLsb' 12 20 = 0 :=
  extractLsb'_eq_of_toNat (by have := s.statusFields_le; rw [s.statusWord_toNat]; change _ = 0; omega)

@[simp] theorem State.reset_statusWord : State.reset.statusWord = 0 := rfl

/-! ## The state a reset leaves (R38, R156 to R158) -/

/-- The reset state with memory `m` and the parameters and the host's side of `s`, after `n` free draws. -/
def State.resetKeeping (s : State) (m : Memory) (n : Nat) : State :=
  { State.reset with
    mem := m, params := s.params, host := s.host, seen := s.seen, delays := s.delays, draws := n }

theorem hostLine_reset (s : State) :
    hostLine .reset s = .next (s.resetKeeping s.memAfterReset (s.draws + s.resetDraws)) := rfl

theorem State.reset_eq_resetKeeping : State.reset = State.reset.resetKeeping [] 0 := rfl

/-- After a reset every register but the two constants reads 0 (R38). -/
theorem State.readReg_resetKeeping (s : State) (m : Memory) (n : Nat) {r : Reg} (h₁ : r ≠ .fourccDxt3)
    (h₂ : r ≠ .fsMagic) : (s.resetKeeping m n).readReg r = 0 := by
  cases r with
  | fourccDxt3 => exact absurd rfl h₁
  | fsMagic => exact absurd rfl h₂
  | status => exact State.reset_statusWord
  | _ => rfl

theorem State.runningOutput_idle {s : State} (h : s.phase = .idle) : s.runningOutput = none := by
  simp [State.runningOutput, h]

/-- With no output region abandoned, a reset leaves memory alone (R158). -/
theorem State.memAfterReset_of_none {s : State} (h : s.runningOutput = none) : s.memAfterReset = s.mem := by
  simp [State.memAfterReset, h]

theorem State.resetDraws_of_none {s : State} (h : s.runningOutput = none) : s.resetDraws = 0 := by
  simp [State.resetDraws, h]

/-- A reset writes no byte at or above `MEM_SIZE`: an output region lies inside memory (R75). -/
theorem State.byte?_memAfterReset_outside {s : State} {a : Nat} (ha : s.memSize ≤ a) :
    s.memAfterReset.byte? a = s.mem.byte? a := by
  cases h : s.runningOutput with
  | none => rw [s.memAfterReset_of_none h]
  | some p =>
    obtain ⟨dst, out⟩ := p
    have hin : dst + out ≤ s.memSize := runningOutput_inside h
    rw [memAfterReset_byte?, h]
    exact if_neg (by omega)

/-! ## The errors the engine raises (R71, R142) -/

/-- The errors a command can end with: all of R142 but the three that only the parser raises. -/
def raisedErrors : List CmdError :=
  [.dimensionMismatch, .invalidDimensions, .truncatedData, .unsupportedTarget, .unsupportedFormat, .illegalCommand,
    .destTooSmall, .bufferOverlap, .addressRange]

theorem code_of_mem_raisedErrors :
    ∀ e ∈ raisedErrors, e.code ≠ 0 ∧ e.code.toNat ∈ [0, 3, 4, 6, 7, 8, 9, 10, 11, 12] := by decide

/-- Conditions 2 and 3 of `Check` by the sets of commands they end (R62, R71). -/
theorem checkCommand_eq (i : Instr) :
    checkCommand i =
      if i = .decUnknown then some .unsupportedFormat
      else if i ∈ unsupportedTargets then some .unsupportedTarget
      else none := by
  cases i <;> rfl

theorem checkCommand_mem_raised {i : Instr} {e : CmdError} (h : checkCommand i = some e) : e ∈ raisedErrors := by
  rw [checkCommand_eq] at h
  split_ifs at h <;> cases h <;> decide

theorem checkDimensions_mem_raised {l : Latched} {e : CmdError} (h : checkDimensions l = some e) :
    e ∈ raisedErrors := by
  unfold checkDimensions at h
  split_ifs at h <;> cases h <;> decide

theorem checkBuffers_mem_raised {l : Latched} {need out ms : Nat} {e : CmdError}
    (h : checkBuffers l need out ms = some e) : e ∈ raisedErrors := by
  unfold checkBuffers at h
  split_ifs at h <;> cases h <;> decide

theorem check_mem_raised {i : Instr} {l : Latched} {ms : Nat} {e : CmdError} (h : check i l ms = some e) :
    e ∈ raisedErrors := by
  unfold check at h
  split at h
  · rename_i hc
    exact checkCommand_mem_raised (hc.trans h)
  · split at h
    · rename_i hd
      exact checkDimensions_mem_raised (hd.trans h)
    · exact checkBuffers_mem_raised h

/-- In an image of width and height 0, as after reset, `Check` ends a command by condition 2 or 3, else by condition 5. -/
theorem check_of_zero_size (i : Instr) {l : Latched} (hw : l.width = 0) (hh : l.height = 0) (ms : Nat) :
    check i l ms = some ((checkCommand i).getD .invalidDimensions) := by
  have hd : checkDimensions l = some .invalidDimensions := by simp [checkDimensions, hw, hh, Latched.W]
  unfold check
  rw [hd]
  cases checkCommand i <;> rfl

/-! ## A command and what it does not read (R23, R31, R161, R165) -/

/-- A change of state that leaves memory and the parameters alone and commutes with both completions. -/
structure CommutesWithCompletion (f : State → State) : Prop where
  mem : ∀ s, (f s).mem = s.mem
  params : ∀ s, (f s).params = s.params
  failWith : ∀ s e, (f s).failWith e = f (s.failWith e)
  succeed : ∀ s a bs out, State.succeed { f s with mem := (f s).mem.writeBytes a bs } out =
    f (State.succeed { s with mem := s.mem.writeBytes a bs } out)

/-- With either latched copy, command `i` checks, computes and writes the same. -/
structure SameOperands (i : Instr) (l l' : Latched) : Prop where
  dst : l'.dst = l.dst
  count : l'.N = l.N
  check : ∀ ms, check i l' ms = check i l ms
  perform : performOf i l' = performOf i l

theorem SameOperands.of_eq (i : Instr) {l l' : Latched} (h : l' = l) : SameOperands i l l' := by
  subst h; exact ⟨rfl, rfl, fun _ => rfl, rfl⟩

/-- A command commutes with a change that reaches neither its operands nor its completion. -/
theorem exec_commutes {f : State → State} (hf : CommutesWithCompletion f) {i : Instr} {s : State}
    (hstart : (f s).start i = f (s.start i)) (hl : SameOperands i (s.latchFor i) ((f s).latchFor i)) :
    ∃ t, exec i s = .next t ∧ exec i (f s) = .next (f t) := by
  have hms : (f s).memSize = s.memSize := by simp [State.memSize, hf.params]
  have hcheck : check i ((f s).latchFor i) (f s).memSize = check i (s.latchFor i) s.memSize := by rw [hms, hl.check]
  cases hc : check i (s.latchFor i) s.memSize with
  | some e =>
    refine ⟨_, exec_of_check_some hc, ?_⟩
    rw [exec_of_check_some (hcheck.trans hc), hstart, hf.failWith]
  | none =>
    refine ⟨_, exec_of_check_none hc, ?_⟩
    have hresult : ∀ bs, commandResult i bs (f s) = f (commandResult i bs s) := by
      intro bs
      unfold commandResult
      rw [hstart, hl.dst, hl.count]
      exact hf.succeed ..
    rw [exec_of_check_none (hcheck.trans hc), hresult, hl.perform, hf.params, hf.mem]

/-- A write to a parameter register commutes with both completions: none of them reads or writes one (R83, R145). -/
theorem writeReg_commutes {r : Reg} (hr : r ∈ parameterRegs) (v : Word) :
    CommutesWithCompletion fun s => s.writeReg r v := by
  fin_cases hr <;> exact ⟨fun _ => rfl, fun _ => rfl, fun _ _ => rfl, fun _ _ _ _ => rfl⟩

/-- A latched copy with the four masks replaced. -/
def Latched.withMasks (l : Latched) (r g b a : Word) : Latched :=
  { l with maskR := r, maskG := g, maskB := b, maskA := a }

/-- Replacing the masks commutes with both completions, which leave no running command. -/
theorem withMasks_commutes (r g b a : Word) : CommutesWithCompletion fun s => s.withMasks r g b a where
  mem _ := rfl
  params _ := rfl
  failWith _ _ := rfl
  succeed _ _ _ _ := rfl

theorem State.withMasks_idle {s : State} (h : s.phase = .idle) (r g b a : Word) :
    (s.withMasks r g b a).phase = .idle := by
  simp [State.withMasks, h]

theorem State.withMasks_busy {s : State} {l : Latched} (h : s.phase = .busy l) (r g b a : Word) :
    (s.withMasks r g b a).phase = .busy (l.withMasks r g b a) := by
  simp [State.withMasks, h, Latched.withMasks]

/-- Replacing the masks before the acceptance of R68 or after it gives the same starting state. -/
theorem State.start_withMasks (s : State) (i : Instr) (r g b a : Word) :
    (s.withMasks r g b a).start i = (s.start i).withMasks r g b a := by
  cases h : s.phase with
  | idle =>
    rw [State.start_idle h, State.start_idle (State.withMasks_idle h r g b a)]
    rfl
  | busy l => rw [State.start_busy h, State.start_busy (State.withMasks_busy h r g b a)]

theorem State.latchFor_withMasks (s : State) (i : Instr) (r g b a : Word) :
    (s.withMasks r g b a).latchFor i = (s.latchFor i).withMasks r g b a := by
  cases h : s.phase with
  | idle =>
    rw [State.latchFor_idle h, State.latchFor_idle (State.withMasks_idle h r g b a)]
    rfl
  | busy l => rw [State.latchFor_busy h, State.latchFor_busy (State.withMasks_busy h r g b a)]

/-- The output of every command but `DEC.MASK16` is computed without the masks (R161). -/
theorem performOf_withMasks {i : Instr} (hi : i ≠ .decMask16) (l : Latched) (r g b a : Word) :
    performOf i (l.withMasks r g b a) = performOf i l := by
  cases i with
  | decMask16 => exact absurd rfl hi
  | _ => rfl

theorem sameOperands_withMasks {i : Instr} (hi : i ≠ .decMask16) (l : Latched) (r g b a : Word) :
    SameOperands i l (l.withMasks r g b a) :=
  ⟨rfl, rfl, fun _ => rfl, performOf_withMasks hi l r g b a⟩

/-! ## BUSY (R28) -/

/-- What a host line does to the phase: nothing, unless it is the reset or, in `IDLE`, the write of a word to `CMD`. -/
theorem hostLine_phase {ln : HostLine} {s t : State} (h : hostLine ln s = .next t) :
    t.phase = s.phase ∨ (ln = .reset ∧ t.phase = .idle) ∨
      (s.phase = .idle ∧ ∃ v, ln = .regWrite 4 0 v ∧ t.cmd = v) := by
  cases ln with
  | regWrite size off v =>
    obtain ⟨hok, rfl⟩ := hostRegWrite_next h
    rcases writeOffset_cases s off v with ⟨hcmd, hw⟩ | ⟨_, hkept, _⟩
    · obtain ⟨rfl, _⟩ := (regAccessOk_iff size off).mp hok
      obtain rfl : off = 0 := eq_regOffset_of_regAt hcmd
      cases hp : s.phase with
      | idle => exact .inr (.inr ⟨rfl, v, rfl, by rw [hw, State.writeCmd_idle hp, State.accept_cmd]⟩)
      | busy l => exact .inl (by rw [hw, State.writeCmd_busy hp]; exact hp)
    · exact .inl hkept.phase
  | regRead size off =>
    obtain ⟨_, rfl⟩ := hostRegRead_next h
    exact .inl rfl
  | memWrite a bs =>
    obtain ⟨_, _, rfl⟩ := hostMemWrite_next h
    exact .inl rfl
  | memRead a n =>
    obtain ⟨_, rfl⟩ := hostMemRead_next h
    exact .inl rfl
  | wait =>
    rcases hostWait_next h with ⟨_, rfl⟩ | ⟨_, rfl⟩
    · exact .inl rfl
    · exact .inl rfl
  | reset =>
    cases h
    exact .inr (.inl ⟨rfl, rfl⟩)

theorem State.busy_congr {s t : State} (h : t.phase = s.phase) : t.busy = s.busy := by
  unfold State.busy; rw [h]

theorem State.memSize_congr {s t : State} (h : t.params = s.params) : t.memSize = s.memSize := by
  unfold State.memSize; rw [h]

/-! ## The invariant, operation by operation -/

/-- A write of bytes inside memory leaves every address outside it alone. -/
theorem Memory.byte?_writeBytes_above {m : Memory} {a top x : Nat} {bs : List Byte}
    (hb : bs = [] ∨ a + bs.length ≤ top) (hx : top ≤ x) : (m.writeBytes a bs).byte? x = m.byte? x := by
  rcases hb with rfl | hb
  · rfl
  · exact Memory.byte?_writeBytes_out _ _ _ (by omega)

/-- The invariant speaks of the result registers, the phase and memory alone: with those registers kept, a memory that is
canonical and inside is enough. -/
theorem Inv.of_resultKept {s t : State} (h : Inv s) (hr : ResultKept s t) (hp : t.params = s.params)
    (hwf : t.mem.wf = true) (hin : ∀ a, s.memSize ≤ a → t.mem.byte? a = none) : Inv t where
  memCanonical := hwf
  memInside a ha := hin a (State.memSize_congr hp ▸ ha)
  busyNotDone hb := by rw [hr.done]; exact h.busyNotDone (State.busy_congr hr.phase ▸ hb)
  busyClear hb := by rw [hr.err, hr.dstLen]; exact h.busyClear (State.busy_congr hr.phase ▸ hb)
  errCode := by rw [hr.err, hr.errCode]; exact h.errCode
  errLen := by rw [hr.err, hr.dstLen]; exact h.errLen
  codeRaised := by rw [hr.errCode]; exact h.codeRaised
  cmdLatched := by rw [hr.cmd, hr.phase]; exact h.cmdLatched
  fresh := by rw [State.busy_congr hr.phase, hr.cmd, hr.dstLen, hr.done, hr.err, hr.drop]; exact h.fresh

theorem Inv.of_memKept {s t : State} (h : Inv s) (hr : ResultKept s t) (hp : t.params = s.params)
    (hm : t.mem = s.mem) : Inv t :=
  h.of_resultKept hr hp (hm ▸ h.memCanonical) (hm ▸ h.memInside)

/-- The host's side of the state is no matter of the invariant. -/
theorem Inv.withHostSide {s : State} (h : Inv s) (host : List HostLine) (seen : List Observation) (delays : List Nat)
    (hold draws : Nat) :
    Inv { s with host := host, seen := seen, delays := delays, hold := hold, draws := draws } :=
  h.of_memKept ⟨rfl, rfl, rfl, rfl, rfl, rfl, rfl⟩ rfl rfl

theorem Inv.writeBytes {s : State} (h : Inv s) {a : Nat} {bs : List Byte} (hb : bs = [] ∨ a + bs.length ≤ s.memSize) :
    Inv { s with mem := s.mem.writeBytes a bs } :=
  h.of_resultKept ⟨rfl, rfl, rfl, rfl, rfl, rfl, rfl⟩ rfl (Memory.wf_writeBytes h.memCanonical a bs) fun x hx =>
    (Memory.byte?_writeBytes_above hb hx).trans (h.memInside x hx)

/-- Acceptance clears `STATUS` and `DST_LEN` and latches the word that `CMD` takes (R31, R68). -/
theorem Inv.accept {s : State} (h : Inv s) (v : Word) : Inv (s.accept v) where
  memCanonical := h.memCanonical
  memInside := h.memInside
  busyNotDone _ := rfl
  busyClear _ := ⟨rfl, rfl⟩
  errCode := by simp
  errLen _ := rfl
  codeRaised := by simp
  cmdLatched l hl := by cases hl; rfl
  fresh hb := by cases hb

theorem Inv.setDrop {s : State} (h : Inv s) (hb : s.busy = true) : Inv { s with drop := true } where
  memCanonical := h.memCanonical
  memInside := h.memInside
  busyNotDone := h.busyNotDone
  busyClear := h.busyClear
  errCode := h.errCode
  errLen := h.errLen
  codeRaised := h.codeRaised
  cmdLatched := h.cmdLatched
  fresh hf := absurd (hf.symm.trans hb) (by decide)

theorem Inv.writeCmd {s : State} (h : Inv s) (v : Word) : Inv (s.writeCmd v) := by
  cases hp : s.phase with
  | idle =>
    rw [State.writeCmd_idle hp]
    exact (h.accept v).withHostSide s.host s.seen s.delays.tail (s.delays.headD 0) s.draws
  | busy l =>
    rw [State.writeCmd_busy hp]
    exact h.setDrop (State.busy_busy hp)

theorem Inv.writeOffset {s : State} (h : Inv s) (off : Nat) (v : Word) : Inv (s.writeOffset off v) := by
  rcases writeOffset_cases s off v with ⟨_, hw⟩ | ⟨_, hkept, _, hm, hp⟩
  · rw [hw]; exact h.writeCmd v
  · exact h.of_memKept hkept hp hm

theorem Inv.start {s : State} (h : Inv s) (i : Instr) : Inv (s.start i) := by
  cases hp : s.phase with
  | idle => rw [State.start_idle hp]; exact h.accept _
  | busy l => rw [State.start_busy hp]; exact h

/-- An error completion: `ERR` and `ERRCODE` are set together, `DST_LEN` is still 0 (R146). -/
theorem Inv.failWith {s : State} (h : Inv s) (hb : s.busy = true) {e : CmdError} (he : e ∈ raisedErrors) :
    Inv (s.failWith e) where
  memCanonical := h.memCanonical
  memInside := h.memInside
  busyNotDone hb' := by cases hb'
  busyClear hb' := by cases hb'
  errCode := by simpa using (code_of_mem_raisedErrors e he).1
  errLen _ := (h.busyClear hb).2
  codeRaised := (code_of_mem_raisedErrors e he).2
  cmdLatched l hl := by cases hl
  fresh _ hd := by cases hd

/-- A successful completion: `ERR` is still 0, so `DST_LEN` is free to hold the length (R83). -/
theorem Inv.succeed {s : State} (h : Inv s) (hb : s.busy = true) (out : Nat) : Inv (s.succeed out) where
  memCanonical := h.memCanonical
  memInside := h.memInside
  busyNotDone hb' := by cases hb'
  busyClear hb' := by cases hb'
  errCode := h.errCode
  errLen he := absurd ((h.busyClear hb).1.symm.trans he) (by decide)
  codeRaised := h.codeRaised
  cmdLatched l hl := by cases hl
  fresh _ hd := by cases hd

/-- Every command keeps the invariant, in both phases. -/
theorem Inv.exec {i : Instr} {s t : State} (h : Inv s) (ht : exec i s = .next t) : Inv t := by
  have hb : (s.start i).busy = true := State.busy_busy (s.start_phase i)
  rcases exec_cases i s with ⟨e, hc, he⟩ | ⟨_, hr, he, hlen⟩
  · obtain rfl : (s.start i).failWith e = t := by simpa [he] using ht
    exact (h.start i).failWith hb (check_mem_raised hc)
  · obtain rfl : commandResult i _ s = t := by simpa only [he, Host.Outcome.next.injEq] using ht
    have hin : (s.latchFor i).dst + (performOf i (s.latchFor i) s.params s.mem).length ≤ (s.start i).memSize := by
      rw [hlen, State.start_memSize]; exact hr.outputInside
    exact ((h.start i).writeBytes (.inr hin)).succeed hb _

theorem Inv.engineTurn {s t : State} (h : Inv s) (ht : engineTurn s = .next t) : Inv t := by
  cases hp : s.phase with
  | idle =>
    rw [engineTurn_idle hp] at ht
    cases ht; exact h
  | busy l =>
    cases hd : decode l.cmd with
    | ok i => exact h.exec (engineTurn_ok hp hd ▸ ht)
    | error r =>
      rw [engineTurn_illegal hp hd] at ht
      cases ht
      exact h.failWith (State.busy_busy hp) (by decide)

/-- A state that a reset leaves meets the invariant when its memory does (R38, R40). -/
theorem Inv.of_reset (s : State) {m : Memory} (n : Nat) (hwf : m.wf = true)
    (hin : ∀ a, s.memSize ≤ a → m.byte? a = none) : Inv (s.resetKeeping m n) where
  memCanonical := hwf
  memInside := hin
  busyNotDone hb := by cases hb
  busyClear hb := by cases hb
  errCode := by simp [State.resetKeeping, State.reset]
  errLen _ := rfl
  codeRaised := by simp [State.resetKeeping, State.reset]
  cmdLatched l hl := by cases hl
  fresh _ _ := ⟨rfl, rfl, rfl, rfl⟩

theorem Inv.hostLine {ln : HostLine} {s t : State} (h : Inv s) (ht : hostLine ln s = .next t) : Inv t := by
  cases ln with
  | regWrite size off v =>
    obtain ⟨_, rfl⟩ := hostRegWrite_next ht
    exact h.writeOffset off v
  | regRead size off =>
    obtain ⟨_, rfl⟩ := hostRegRead_next ht
    exact h.withHostSide ..
  | memWrite a bs =>
    obtain ⟨hb, _, rfl⟩ := hostMemWrite_next ht
    exact h.writeBytes hb
  | memRead a n =>
    obtain ⟨_, rfl⟩ := hostMemRead_next ht
    exact h.withHostSide ..
  | wait =>
    rcases hostWait_next ht with ⟨_, rfl⟩ | ⟨_, rfl⟩
    · exact h.withHostSide ..
    · exact h.withHostSide ..
  | reset =>
    rw [hostLine_reset] at ht
    cases ht
    exact Inv.of_reset s _ (memAfterReset_wf h.memCanonical) fun a ha =>
      (State.byte?_memAfterReset_outside ha).trans (h.memInside a ha)

/-! ## The obligations -/

/-- Settles O58: a step is the engine's turn, an idle machine or a host line, and each keeps the invariant. -/
theorem stepKeepsInv : Obligations.StepKeepsInv := by
  intro s t h ht
  rcases step_cases s with ⟨_, he⟩ | ⟨_, _, he⟩ | ⟨ln, rest, hold, _, he⟩
  · exact h.engineTurn (he ▸ ht)
  · rw [he] at ht
    cases ht; exact h
  · exact (h.withHostSide rest s.seen s.delays hold s.draws).hostLine (he ▸ ht)

/-- Settles O20: an illegal word fails before `Check`; a legal one is ended by `Check`, the image being of width 0. -/
theorem commandStraightAfterReset : Obligations.CommandStraightAfterReset := by
  intro p v
  have hp : ({ State.reset with params := p }.accept v).phase = .busy (State.reset.latch v) := rfl
  cases hd : decode v with
  | error r => exact ⟨_, engineTurn_illegal hp hd, rfl, rfl, rfl⟩
  | ok i =>
    have hc := check_of_zero_size i (l := State.reset.latch v) rfl rfl ({ State.reset with params := p }.accept v).memSize
    rw [← State.latchFor_busy hp i] at hc
    refine ⟨_, (engineTurn_ok hp hd).trans (exec_of_check_some hc), rfl, rfl, ?_⟩
    rw [State.failWith_errCode, checkCommand_eq]
    dsimp only
    split_ifs <;> rfl

/-- Settles O54: the write leaves the latched copy alone and commutes with the completion. -/
theorem parameterWriteMissesRunningCommand : Obligations.ParameterWriteMissesRunningCommand := by
  intro i s l r v hp hr
  have hp' : (s.writeReg r v).phase = .busy l :=
    (writeReg_kept s (ne_cmd_of_mem_parameterRegs hr) v).1.phase.trans hp
  refine exec_commutes (writeReg_commutes hr v) ?_ (SameOperands.of_eq i ?_)
  · rw [State.start_busy hp, State.start_busy hp']
  · rw [State.latchFor_busy hp, State.latchFor_busy hp']

/-- Settles O55: without the masks, the latched copy gives such a command the same checks and the same output. -/
theorem masksReadByMask16Only : Obligations.MasksReadByMask16Only := by
  intro i s r g b a hi
  refine exec_commutes (withMasks_commutes r g b a) (s.start_withMasks i r g b a) ?_
  rw [State.latchFor_withMasks]
  exact sameOperands_withMasks hi _ r g b a

/-- Settles O59: only the engine's turn, a reset and, in `IDLE`, a CMD write change the phase. -/
theorem busyWrittenOnlyByTheseEvents : Obligations.BusyWrittenOnlyByTheseEvents := by
  intro s t ht
  rcases step_cases s with ⟨⟨l, hl⟩, he⟩ | ⟨hi, _, he⟩ | ⟨ln, rest, hold, hln, he⟩
  · exact ⟨fun hs => by simp [State.busy_busy hl] at hs, fun _ _ => .inl (he ▸ ht)⟩
  · exact ⟨fun hs hb => by rw [he] at ht; cases ht; simp [hs] at hb, fun hs => by simp [State.busy_idle hi] at hs⟩
  · rcases hostLine_phase (he ▸ ht) with hsame | ⟨rfl, hidle⟩ | ⟨hi, v, rfl, hcmd⟩
    · have hbusy : t.busy = s.busy := State.busy_congr hsame
      exact ⟨fun hs hb => by simp [hbusy, hs] at hb, fun hs hb => by simp [hbusy, hs] at hb⟩
    · exact ⟨fun _ hb => by simp [State.busy_idle hidle] at hb, fun _ _ => .inr ⟨rest, hln⟩⟩
    · have hidle : s.busy = false := State.busy_idle (s := s) hi
      exact ⟨fun _ _ => ⟨v, rest, hln, hcmd⟩, fun hs => by simp [hidle] at hs⟩

/-- Settles O8: the write is `writeReg`, and what each register then reads is `State.readReg_writeReg`. -/
theorem parameterRegisterWrite : Obligations.ParameterRegisterWrite := by
  intro s r v hr
  obtain ⟨hresult, hhost, hmem, hparams⟩ := writeReg_kept s (ne_cmd_of_mem_parameterRegs hr) v
  refine ⟨_, hostLine_lineW r v s, ?_, fun r' hne => ?_, hresult.phase, hmem, hparams, hhost⟩
  · rw [State.readReg_writeReg hr, if_pos rfl]
  · rw [State.readReg_writeReg hr, if_neg hne]

/-- Settles O9. -/
theorem readOnlyRegisterWriteIgnored : Obligations.ReadOnlyRegisterWriteIgnored := by
  intro s r v hr
  rw [hostLine_lineW, State.writeReg_readOnly hr]

/-- Settles O10: no register stands from `0x3C` up. -/
theorem reservedOffsets : Obligations.ReservedOffsets := by
  intro s off v hlo hhi hoff
  have hok : regAccessOk 4 off = true := (regAccessOk_iff 4 off).mpr ⟨rfl, hoff, by omega⟩
  have hnone := regAt_reserved hlo
  rw [hostLine_regRead hok, hostLine_regWrite hok]
  simp [State.readOffset, State.writeOffset, State.observe, hnone]

/-- Settles O11. -/
theorem registerReadHasNoSideEffect : Obligations.RegisterReadHasNoSideEffect :=
  fun s r => hostLine_lineR r s

/-- Settles O14. -/
theorem commandWriteDropped : Obligations.CommandWriteDropped := by
  intro s l v hp
  refine ⟨?_, State.statusWord_drop _⟩
  rw [hostLine_lineW]
  exact congrArg Host.Outcome.next (State.writeCmd_busy hp v)

/-- Settles O15: the layout field by field; the two invariants are the invariant's clauses on the fields read. -/
theorem statusLayout : Obligations.StatusLayout := by
  refine ⟨State.reset_statusWord, fun s => ⟨s.statusWord_busy, s.statusWord_done, s.statusWord_err, s.statusWord_drop,
    s.statusWord_lowReserved, s.statusWord_errCode, s.statusWord_highReserved, fun h => ?_⟩⟩
  rw [s.statusWord_busy, s.statusWord_done, s.statusWord_err, s.statusWord_errCode]
  exact ⟨fun ⟨hb, hd⟩ => by simp [h.busyNotDone hb] at hd, h.errCode⟩

/-- Settles O17. -/
theorem resetStateRegisters : Obligations.ResetStateRegisters := by
  refine ⟨fun r h₁ h₂ => ?_, rfl, rfl, fun _ => rfl⟩
  rw [State.reset_eq_resetKeeping]
  exact State.readReg_resetKeeping _ _ _ h₁ h₂

/-- Settles O18: in `IDLE` no output region is abandoned, so memory and the draws are as before. -/
theorem resetInIdle : Obligations.ResetInIdle := by
  intro s hp
  have hnone := State.runningOutput_idle hp
  refine ⟨_, hostLine_reset s, fun r h₁ h₂ => State.readReg_resetKeeping _ _ _ h₁ h₂, rfl, rfl, rfl, ?_, rfl, ?_⟩
  · exact State.memAfterReset_of_none hnone
  · exact congrArg (s.draws + ·) (State.resetDraws_of_none hnone)

/-- Settles O57: at reset memory lists no byte, and every result register is 0. -/
theorem invAtReset : Obligations.InvAtReset :=
  Inv.of_reset State.reset 0 rfl fun _ _ => rfl

end Sys2Proof.Machine
end

section
/-! SUPPORT. The host and memory while a command runs: which `MW` is taken and which is refused (R40, R52, R163), what an
`MR` returns (R51, R164), what no host line changes (R52, R53), and that a command reads no byte of memory outside its
input region (R53, R74). -/

namespace Sys2Proof.Machine

/-! ## Regions of the running command (R49, R74) -/

theorem checkCommand_of_supported {i : Instr} (hi : i ∈ supportedCommands) : checkCommand i = none := by
  fin_cases hi <;> rfl

/-- A supported command of legal size has the regions of R49, whatever conditions 6 to 9 of `Check` say (log 10). -/
theorem Latched.regions_of_goodSize {l : Latched} {i : Instr} (hd : decode l.cmd = .ok i) (hi : i ∈ supportedCommands)
    (hl : GoodSize l) : l.regions = some ⟨l.src, needOf i l.N, l.dst, outOf i l.N⟩ := by
  simp [Latched.regions, hd, checkCommand_of_supported hi, (checkDimensions_none_iff l).mpr hl]

theorem State.runningRegions_busy {s : State} {l : Latched} (h : s.phase = .busy l) : s.runningRegions = l.regions := by
  simp [State.runningRegions, h]

/-- A range of addresses that touches no region of the running command holds no byte of one. -/
theorem not_mem_range_of_touchesRunning_false {s : State} {r : Regions} {a n x : Nat}
    (ht : s.touchesRunning a n = false) (hr : s.runningRegions = some r) (hx : r.contains x = true) :
    ¬ (a ≤ x ∧ x < a + n) := by
  rintro ⟨hlo, hhi⟩
  obtain ⟨k, rfl⟩ := Nat.exists_eq_add_of_le hlo
  have hout := (touchesRunning_false_iff s a n).mp ht r hr k (by omega)
  simp [hout] at hx

/-! ## `MW` (R40, R47, R52) -/

theorem hostLine_memWrite {a : Nat} {bs : List Byte} {s : State} (hin : a + bs.length ≤ s.memSize)
    (ht : s.touchesRunning a bs.length = false) :
    hostLine (.memWrite a bs) s = .next { s with mem := s.mem.writeBytes a bs } := by
  simp [hostLine, hostMemWrite, outsideMemory_of_le hin, ht]

theorem hostLine_memWrite_refused {a : Nat} {bs : List Byte} {s : State} (hin : a + bs.length ≤ s.memSize)
    (ht : s.touchesRunning a bs.length = true) :
    hostLine (.memWrite a bs) s = .refused .hostWriteToRunningRegion := by
  simp [hostLine, hostMemWrite, outsideMemory_of_le hin, ht]

/-! ## `MR` (R51, R164) -/

/-- The engine's turn always answers a next state, whose memory is the final memory of R51. -/
theorem engineTurn_next (s : State) : ∃ u, engineTurn s = .next u ∧ u.mem = s.finalMem := by
  cases hp : s.phase with
  | idle => exact ⟨_, engineTurn_idle hp, by simp [State.finalMem, engineTurn_idle hp]⟩
  | busy l =>
    rcases engineTurn_cases hp with ⟨e, _, he⟩ | ⟨out, bs, _, _, _, _, he⟩
    · exact ⟨_, he, by simp [State.finalMem, he]⟩
    · exact ⟨_, he, by simp [State.finalMem, he]⟩

/-- A host read of one byte returns the current byte or, in the output region alone, the final one. -/
theorem State.hostByte_cases (s : State) (a draw : Nat) :
    s.hostByte a draw = s.mem.read a ∨ (s.hostByte a draw = s.finalMem.read a ∧
      ∃ dst out, s.runningOutput = some (dst, out) ∧ dst ≤ a ∧ a < dst + out) := by
  unfold State.hostByte
  split
  · exact .inl rfl
  · rename_i dst out ho
    split_ifs with hin
    · exact .inl rfl
    · exact .inr ⟨rfl, dst, out, ho, hin⟩
    · exact .inl rfl

theorem hostLine_memRead {a n : Nat} {s : State} (hin : a + n ≤ s.memSize) :
    hostLine (.memRead a n) s = .next
      { s.observe (.mem a ((List.range n).map fun k => s.hostByte (a + k) (s.draws + k))) with
        draws := s.draws + n } := by
  simp [hostLine, hostMemRead, outsideMemory_of_le hin]

/-! ## While a command goes on running (R31, R52, R53) -/

@[simp] theorem State.writeCmd_mem (s : State) (v : Word) : (s.writeCmd v).mem = s.mem := by
  cases h : s.phase with
  | idle => rw [State.writeCmd_idle h, State.accept_mem]
  | busy l => rw [State.writeCmd_busy h]

@[simp] theorem State.writeOffset_mem (s : State) (off : Nat) (v : Word) : (s.writeOffset off v).mem = s.mem := by
  rcases writeOffset_cases s off v with ⟨_, hw⟩ | ⟨_, _, _, hm, _⟩
  · rw [hw, State.writeCmd_mem]
  · exact hm

/-- The engine's turn leaves no running command (R81, R83, R146). -/
theorem engineTurn_phase {s t : State} (h : engineTurn s = .next t) : t.phase = .idle := by
  cases hp : s.phase with
  | idle =>
    rw [engineTurn_idle hp] at h
    cases h; exact hp
  | busy l =>
    rcases engineTurn_cases hp with ⟨e, _, he⟩ | ⟨out, bs, _, _, _, _, he⟩
    · rw [he] at h
      cases h; rfl
    · rw [he] at h
      cases h; rfl

/-- Of the host lines only a reset changes a byte of the running command's regions: an `MW` there has no step. -/
theorem hostLine_keeps_regions {ln : HostLine} {s t : State} (h : hostLine ln s = .next t) (hln : ln ≠ .reset)
    {r : Regions} (hr : s.runningRegions = some r) {x : Nat} (hx : r.contains x = true) :
    t.mem.byte? x = s.mem.byte? x := by
  cases ln with
  | regWrite size off v =>
    obtain ⟨_, rfl⟩ := hostRegWrite_next h
    rw [State.writeOffset_mem]
  | regRead size off =>
    obtain ⟨_, rfl⟩ := hostRegRead_next h
    rfl
  | memWrite a bs =>
    obtain ⟨_, ht, rfl⟩ := hostMemWrite_next h
    exact Memory.byte?_writeBytes_out _ _ _ (not_mem_range_of_touchesRunning_false ht hr hx)
  | memRead a n =>
    obtain ⟨_, rfl⟩ := hostMemRead_next h
    rfl
  | wait =>
    rcases hostWait_next h with ⟨_, rfl⟩ | ⟨_, rfl⟩
    · rfl
    · rfl
  | reset => exact absurd rfl hln

/-- A host line that leaves a running command running is no reset and keeps the phase, the latched copy with it. -/
theorem hostLine_phase_of_busy {ln : HostLine} {s t : State} {l l' : Latched} (h : hostLine ln s = .next t)
    (hs : s.phase = .busy l) (ht : t.phase = .busy l') : l' = l ∧ ln ≠ .reset := by
  have hln : ln ≠ .reset := by
    rintro rfl
    cases h; cases ht
  rcases hostLine_phase h with hsame | ⟨hreset, _⟩ | ⟨hidle, _⟩
  · exact ⟨Phase.busy.inj (ht.symm.trans (hsame.trans hs)), hln⟩
  · exact absurd hreset hln
  · cases hs.symm.trans hidle

/-! ## The same bytes in two memories (R53) -/

/-- The two memories read the same in the `n` bytes from `a` up. -/
def SameBytes (m m' : Memory) (a n : Nat) : Prop := ∀ x, a ≤ x → x < a + n → m.read x = m'.read x

theorem SameBytes.mono {m m' : Memory} {a n b k : Nat} (h : SameBytes m m' a n) (hlo : a ≤ b) (hhi : b + k ≤ a + n) :
    SameBytes m m' b k :=
  fun x h₁ h₂ => h x (by omega) (by omega)

/-- Of `n` elements of `c` bytes each, element `k`. -/
theorem SameBytes.element {m m' : Memory} {a c n k : Nat} (h : SameBytes m m' a (c * n)) (hk : k < n) :
    SameBytes m m' (a + c * k) c := by
  have hfit : c * (k + 1) ≤ c * n := Nat.mul_le_mul_left c hk
  rw [Nat.mul_succ] at hfit
  exact h.mono (by omega) (by omega)

theorem SameBytes.memRead_eq {m m' : Memory} {a n : Nat} (h : SameBytes m m' a n) : m.memRead a n = m'.memRead a n :=
  Memory.memRead_congr n fun k hk => h (a + k) (by omega) (by omega)

theorem SameBytes.bytes_eq {m m' : Memory} {a n : Nat} (h : SameBytes m m' a n) : m.bytes a n = m'.bytes a n :=
  List.map_congr_left fun k hk => h (a + k) (by omega) (by have := List.mem_range.mp hk; omega)

theorem rasterBytes_congr {n : Nat} {f g : Nat → List Byte} (h : ∀ k < n, f k = g k) :
    rasterBytes n f = rasterBytes n g :=
  List.flatMap_congr fun k hk => h k (List.mem_range.mp hk)

/-! ## A block decoder reads its block alone (R97, R101, R104, R107) -/

theorem colourBlock_congr (mode : ColourMode) {m m' : Memory} {a : Nat} (h : SameBytes m m' a 8) (t : Nat) :
    colourBlock mode m a t = colourBlock mode m' a t := by
  have hc0 : SameBytes m m' a 2 := h.mono (by omega) (by omega)
  have hc1 : SameBytes m m' (a + 2) 2 := h.mono (by omega) (by omega)
  have hidx : SameBytes m m' (a + 4) 4 := h.mono (by omega) (by omega)
  simp only [colourBlock, hc0.memRead_eq, hc1.memRead_eq, hidx.memRead_eq]

theorem dxt3Texel_congr {m m' : Memory} {a : Nat} (h : SameBytes m m' a 16) (t : Nat) :
    dxt3Texel m a t = dxt3Texel m' a t := by
  have halpha : SameBytes m m' a 8 := h.mono (by omega) (by omega)
  have hcolour : SameBytes m m' (a + 8) 8 := h.mono (by omega) (by omega)
  simp only [dxt3Texel, halpha.memRead_eq, colourBlock_congr .four hcolour]

theorem dxt5Texel_congr {m m' : Memory} {a : Nat} (h : SameBytes m m' a 16) (t : Nat) :
    dxt5Texel m a t = dxt5Texel m' a t := by
  have ha0 : SameBytes m m' a 1 := h.mono (by omega) (by omega)
  have ha1 : SameBytes m m' (a + 1) 1 := h.mono (by omega) (by omega)
  have hidx : SameBytes m m' (a + 2) 6 := h.mono (by omega) (by omega)
  have hcolour : SameBytes m m' (a + 8) 8 := h.mono (by omega) (by omega)
  simp only [dxt5Texel, ha0.memRead_eq, ha1.memRead_eq, hidx.memRead_eq, colourBlock_congr .four hcolour]

/-- The block frame asks for the texels of the image's blocks alone, so a block decoder that reads its own block makes
it read the blocks alone. -/
theorem blockDecodeBytes_congr {bs : Nat} {f : Memory → Nat → Nat → Texel} {l : Latched} {m m' : Memory}
    (hf : ∀ {a}, SameBytes m m' a bs → ∀ t, f m a t = f m' a t) (hl : GoodSize l)
    (h : SameBytes m m' l.src (bs * l.NB)) : blockDecodeBytes bs f l m = blockDecodeBytes bs f l m' := by
  obtain ⟨bw, hbw, hW, hN, hNB⟩ := hl.counts
  refine rasterBytes_congr fun n hn => congrArg Texel.bytes (hf (h.element ?_) _)
  rw [hW, hNB]
  exact blockOf_lt hbw (hN ▸ hn)

/-! ## The encoder reads the raster alone (R109) -/

theorem rasterTexel_congr {m m' : Memory} {src n : Nat} (h : SameBytes m m' (src + 4 * n) 4) :
    rasterTexel m src n = rasterTexel m' src n := by
  simp only [rasterTexel, h (src + 4 * n) (by omega) (by omega), h (src + 4 * n + 1) (by omega) (by omega),
    h (src + 4 * n + 2) (by omega) (by omega), h (src + 4 * n + 3) (by omega) (by omega)]

theorem gather_congr {l : Latched} {m m' : Memory} (hl : GoodSize l) (h : SameBytes m m' l.src (4 * l.N)) {b : Nat}
    (hb : b < l.NB) : gather l m b = gather l m' b := by
  obtain ⟨bw, hbw, hW, hN, hNB⟩ := hl.counts
  refine List.map_congr_left fun t ht => rasterTexel_congr (h.element ?_)
  rw [hW, hN]
  exact texelIndex_lt hbw (hNB ▸ hb) (List.mem_range.mp ht)

/-! ## Every command reads its input region alone (R53, R74) -/

theorem performDecStd24_congr {l : Latched} {m m' : Memory} (p : Params) (h : SameBytes m m' l.src (3 * l.N)) :
    performDecStd24 l p m = performDecStd24 l p m' := by
  refine rasterBytes_congr fun n hn => ?_
  have he := h.element hn
  rw [he (l.src + 3 * n) (by omega) (by omega), he (l.src + 3 * n + 1) (by omega) (by omega),
    he (l.src + 3 * n + 2) (by omega) (by omega)]

theorem performEncStd24_congr {l : Latched} {m m' : Memory} (p : Params) (h : SameBytes m m' l.src (4 * l.N)) :
    performEncStd24 l p m = performEncStd24 l p m' := by
  refine rasterBytes_congr fun n hn => ?_
  have he := h.element hn
  rw [he (l.src + 4 * n) (by omega) (by omega), he (l.src + 4 * n + 1) (by omega) (by omega),
    he (l.src + 4 * n + 2) (by omega) (by omega)]

theorem performDecStd16_congr {l : Latched} {m m' : Memory} (p : Params) (h : SameBytes m m' l.src (2 * l.N)) :
    performDecStd16 l p m = performDecStd16 l p m' :=
  rasterBytes_congr fun n hn => by rw [(h.element hn).memRead_eq]

theorem performDecMask16_congr {l : Latched} {m m' : Memory} (p : Params) (h : SameBytes m m' l.src (2 * l.N)) :
    performDecMask16 l p m = performDecMask16 l p m' :=
  rasterBytes_congr fun n hn => by rw [(h.element hn).memRead_eq]

theorem performEncDxt3_congr {l : Latched} {m m' : Memory} (p : Params) (hl : GoodSize l)
    (h : SameBytes m m' l.src (4 * l.N)) : performEncDxt3 l p m = performEncDxt3 l p m' :=
  rasterBytes_congr fun b hb => by rw [gather_congr hl h hb]

/-- What a command of legal size writes is a function of the latched copy, the parameters and its `need` input bytes. -/
theorem performOf_congr {i : Instr} {l : Latched} (hl : GoodSize l) (p : Params) {m m' : Memory}
    (h : SameBytes m m' l.src (needOf i l.N)) : performOf i l p m = performOf i l p m' := by
  have h16 := hl.sixteen
  have blocks8 : SameBytes m m' l.src (l.N / 2) → SameBytes m m' l.src (8 * l.NB) :=
    fun h => h.mono (by omega) (by omega)
  have blocks16 : SameBytes m m' l.src l.N → SameBytes m m' l.src (16 * l.NB) :=
    fun h => h.mono (by omega) (by omega)
  cases i
  case decStd24 => exact performDecStd24_congr p h
  case decStd32 => exact SameBytes.bytes_eq h
  case decFs32 => exact SameBytes.bytes_eq h
  case decDxt1 => exact blockDecodeBytes_congr (colourBlock_congr .dxt1) hl (blocks8 h)
  case decDxt1a => exact blockDecodeBytes_congr (colourBlock_congr .dxt1a) hl (blocks8 h)
  case decDxt3 => exact blockDecodeBytes_congr dxt3Texel_congr hl (blocks16 h)
  case decDxt5 => exact blockDecodeBytes_congr dxt5Texel_congr hl (blocks16 h)
  case decStd16 => exact performDecStd16_congr p h
  case decMask16 => exact performDecMask16_congr p h
  case encStd24 => exact performEncStd24_congr p h
  case encFs32 => exact SameBytes.bytes_eq h
  case encDxt3 => exact performEncDxt3_congr p hl h
  case emitStd24 => exact congrArg (_ ++ ·) (SameBytes.bytes_eq h)
  case emitFs32 => exact congrArg (_ ++ ·) (SameBytes.bytes_eq h)
  case emitDxt3 => exact congrArg (_ ++ ·) (SameBytes.bytes_eq h)
  all_goals rfl

/-! ## The obligations -/

/-- Settles O49: the line is the write of its bytes, and the rest is what `writeBytes` does to memory. -/
theorem hostMemoryWrite : Obligations.HostMemoryWrite := by
  intro s a bs hin hfree
  refine ⟨_, hostLine_memWrite hin ((touchesRunning_false_iff s a bs.length).mpr hfree), fun k b hk => ?_,
    fun x hx => Memory.byte?_writeBytes_out _ _ _ hx, ?_, ?_, ?_⟩
  · obtain ⟨hlt, rfl⟩ := List.getElem?_eq_some_iff.mp hk
    exact Memory.read_writeBytes_in _ _ _ hlt
  · constructor <;> rfl
  · constructor <;> rfl
  · constructor <;> rfl

/-- Settles O50: byte `k` of the line lies in a region of R49. -/
theorem hostWriteToRunningRegionRefused : Obligations.HostWriteToRunningRegionRefused := by
  intro s l i a bs k hp hd hi hl hin hk hbyte
  have hr : s.runningRegions = some ⟨l.src, needOf i l.N, l.dst, outOf i l.N⟩ :=
    (State.runningRegions_busy hp).trans (Latched.regions_of_goodSize hd hi hl)
  refine hostLine_memWrite_refused hin (Bool.eq_true_of_not_eq_false fun hfree => ?_)
  exact not_mem_range_of_touchesRunning_false hfree hr ((Regions.contains_iff _ (a + k)).mpr hbyte)
    ⟨by omega, by omega⟩

/-- Settles O51: byte by byte, `hostByte_cases`. -/
theorem hostMemoryRead : Obligations.HostMemoryRead := by
  intro s a n hin
  obtain ⟨u, hu, hfinal⟩ := engineTurn_next s
  refine ⟨_, _, u, hostLine_memRead hin, hu, rfl, by simp, rfl, ?_, ?_, fun k b hk => ?_⟩
  · constructor <;> rfl
  · constructor <;> rfl
  · obtain ⟨hlt, rfl⟩ := List.getElem?_eq_some_iff.mp hk
    rw [List.getElem_map, List.getElem_range, hfinal]
    exact s.hostByte_cases (a + k) (s.draws + k)

/-- Settles O52: a command that goes on running has seen neither the engine's turn nor a reset, and every other host line
keeps its latched copy and its regions. -/
theorem runningRegionsStable : Obligations.RunningRegionsStable := by
  intro s t l l' hs hstep ht
  rcases step_cases s with ⟨_, he⟩ | ⟨hidle, _, _⟩ | ⟨ln, rest, hold, _, he⟩
  · cases ht.symm.trans (engineTurn_phase (he ▸ hstep))
  · cases hs.symm.trans hidle
  · have hline : hostLine ln { s with hold := hold, host := rest } = .next t := he ▸ hstep
    obtain ⟨hlatch, hln⟩ := hostLine_phase_of_busy hline hs ht
    exact ⟨hlatch, fun r hr _ hx =>
      hostLine_keeps_regions hline hln ((State.runningRegions_busy hs).trans hr) hx⟩

/-- Settles O53: both runs perform on the same latched copy, parameters and input bytes, so they write the same bytes. -/
theorem outputDependsOnInputOnly : Obligations.OutputDependsOnInputOnly := by
  rintro i s s' l hi rfl hl' hp hr hsame
  have hc := checkCommand_of_supported hi
  have hperform : performOf i (s.latchFor i) s'.params s'.mem = performOf i (s.latchFor i) s.params s.mem :=
    hp ▸ performOf_congr hr.size _ hsame
  have hlen := performOf_length hc hr.size s.params s.mem
  have hr' : Ready (needOf i (s'.latchFor i).N) (outOf i (s'.latchFor i).N) (s'.latchFor i) s'.memSize := by
    rw [hl', State.memSize_congr hp]; exact hr
  obtain ⟨t, ht, _, hread⟩ := exec_ready hc hr
  obtain ⟨t', ht', _, hread'⟩ := exec_ready hc hr'
  rw [hl', hperform] at hread'
  refine ⟨t, t', ht, ht', fun a hlo hhi => ?_⟩
  obtain ⟨k, rfl⟩ := Nat.exists_eq_add_of_le hlo
  have hk : k < (performOf i (s.latchFor i) s.params s.mem).length := by omega
  have hbyte := List.getElem?_eq_getElem hk
  rw [hread k _ hbyte, hread' k _ hbyte]

end Sys2Proof.Machine
end

section
/-! SUPPORT. The decoder inverted: what an accepted word says of its fields, the three fields as numbers (R57 to R61),
one poll of a `WAIT` that stands (R67), and what the completion of a command leaves of the host's lines (R83, R146). -/

namespace Sys2Proof

/-! ## The decoder and the encoder (R57 to R62) -/

@[simp] theorem instrOf_op (o : Op) (p : PixelFormat) : (instrOf o p).op = o := by
  cases o <;> cases p <;> rfl

@[simp] theorem instrOf_fmt (o : Op) (p : PixelFormat) : (instrOf o p).fmt = p := by
  cases o <;> cases p <;> rfl

/-- No two `OP` codes name the same operation (R59). -/
theorem Op.ofCode_inj {c d : BitVec 4} {o : Op} (hc : Op.ofCode c = some o) (hd : Op.ofCode d = some o) : c = d := by
  have named_once : ∀ c d : BitVec 4, (Op.ofCode c).isSome → Op.ofCode c = Op.ofCode d → c = d := by decide
  exact named_once c d (by simp [hc]) (hc.trans hd.symm)

/-- No two `FMT` codes name the same format (R58). -/
theorem PixelFormat.ofCode_inj {c d : BitVec 4} {p : PixelFormat} (hc : PixelFormat.ofCode c = some p)
    (hd : PixelFormat.ofCode d = some p) : c = d := by
  have named_once : ∀ c d : BitVec 4, (PixelFormat.ofCode c).isSome → PixelFormat.ofCode c = PixelFormat.ofCode d →
      c = d := by decide
  exact named_once c d (by simp [hc]) (hc.trans hd.symm)

/-- The fields of an accepted word: no reserved bit, and the codes of the command's operation and format (R61). -/
theorem cmdFields_of_decode_ok {v : Word} {i : Instr} (h : decode v = .ok i) :
    (cmdFields v).rsv = 0 ∧ Op.ofCode (cmdFields v).op = some i.op ∧
      PixelFormat.ofCode (cmdFields v).fmt = some i.fmt := by
  unfold decode at h
  by_cases hr : (cmdFields v).rsv = 0#24
  · cases ho : Op.ofCode (cmdFields v).op with
    | none => simp [hr, ho] at h
    | some o =>
      cases hp : PixelFormat.ofCode (cmdFields v).fmt with
      | none => simp [hr, ho, hp] at h
      | some p =>
        obtain rfl : instrOf o p = i := by simpa [hr, ho, hp] using h
        simp [hr]
  · simp [hr] at h

/-- At most one word decodes to a command: the three fields are fixed, and they are the whole word (R57). -/
theorem decode_ok_inj {v w : Word} {i : Instr} (hv : decode v = .ok i) (hw : decode w = .ok i) : v = w := by
  obtain ⟨hrv, hov, hpv⟩ := cmdFields_of_decode_ok hv
  obtain ⟨hrw, how, hpw⟩ := cmdFields_of_decode_ok hw
  apply eq_of_cmdFields_eq
  rw [CmdFields.mk.injEq]
  exact ⟨hrv.trans hrw.symm, PixelFormat.ofCode_inj hpv hpw, Op.ofCode_inj hov how⟩

/-- Every word of the table of R62 decodes to its command. -/
@[simp] theorem decode_encode (i : Instr) : decode (encode i) = .ok i := by
  cases i <;> rfl

/-! ## The fields as numbers (R57, R60) -/

theorem cmdFields_op_toNat (v : Word) : (cmdFields v).op.toNat = v.toNat % 16 := by
  simp [cmdFields]

theorem cmdFields_fmt_toNat (v : Word) : (cmdFields v).fmt.toNat = v.toNat / 16 % 16 := by
  simp [cmdFields, Nat.shiftRight_eq_div_pow]

theorem cmdFields_rsv_toNat (v : Word) : (cmdFields v).rsv.toNat = v.toNat / 256 % 2 ^ 24 := by
  simp [cmdFields, Nat.shiftRight_eq_div_pow]

/-- No bit of 31:8 is set exactly in a word below 256 (R60). -/
theorem cmdFields_rsv_eq_zero_iff (v : Word) : (cmdFields v).rsv = 0 ↔ v.toNat < 256 := by
  have hv := v.isLt
  have hz : (0 : BitVec 24).toNat = 0 := rfl
  rw [← BitVec.toNat_inj, cmdFields_rsv_toNat, hz]
  omega

theorem CmdFields.wf_iff (f : CmdFields) :
    f.wf = true ↔ f.rsv = 0 ∧ (1 ≤ f.op.toNat ∧ f.op.toNat ≤ 3) ∧ f.fmt.toNat ≤ 9 := by
  simp [CmdFields.wf, CmdFields.rsvOk, CmdFields.opOk, CmdFields.fmtOk, and_assoc]

/-- A word is rejected exactly when its fields are not well formed (R61). -/
theorem decode_error_iff (v : Word) : (∃ r, decode v = .error r) ↔ ¬ (cmdFields v).wf = true := by
  rw [← decode_isOk]
  cases decode v <;> simp [Except.toOption]

/-! ## The obligations on the decoder -/

/-- Settles O1: the table's word decodes to its command, and no two words decode to the same one. -/
theorem decodeIffCommandWord : Obligations.DecodeIffCommandWord :=
  fun _ i => ⟨fun h => decode_ok_inj h (decode_encode i), fun h => h ▸ decode_encode i⟩

/-- Settles O2: well-formedness of the fields, with each field written as a number. -/
theorem illegalWordsByField : Obligations.IllegalWordsByField := by
  intro v
  rw [decode_error_iff, CmdFields.wf_iff, cmdFields_rsv_eq_zero_iff, cmdFields_op_toNat, cmdFields_fmt_toNat]
  omega

/-- Settles O3: each legal sample is the table's word of its command; the four illegal ones are evaluated. -/
theorem sampleWordsDecode : Obligations.SampleWordsDecode :=
  ⟨decode_encode .decStd24, decode_encode .decMask16, decode_encode .decDxt5, decode_encode .encDxt3,
    decode_encode .emitFs32, decode_encode .decUnknown, decode_encode .emitUnknown, rfl, rfl, rfl, rfl⟩

end Sys2Proof

namespace Sys2Proof.Machine

/-! ## `WAIT` (R67) -/

/-- While a command runs a poll leaves the `WAIT` line standing. -/
theorem hostLine_wait_busy {s : State} (h : s.busy = true) :
    hostLine .wait s = .next { s.observe (.reg 0x04 s.statusWord) with host := .wait :: s.host } := if_pos h

/-- In `IDLE` a poll reads `STATUS` and ends the `WAIT`. -/
theorem hostLine_wait_idle {s : State} (h : s.busy = false) :
    hostLine .wait s = .next (s.observe (.reg 0x04 s.statusWord)) := if_neg (by simp [h])

/-- A step with `hold` above 0 and a `WAIT` next is a poll: it lowers `hold`, the command runs on and the line stands. -/
theorem step_wait_busy {s : State} {l : Latched} {rest : List HostLine} {n : Nat} (hp : s.phase = .busy l)
    (hw : s.host = .wait :: rest) (hn : s.hold = n + 1) :
    ∃ t, step s = .next t ∧ t.phase = .busy l ∧ t.host = .wait :: rest ∧ t.hold = n := by
  have hstep : step s = hostLine .wait { s with hold := s.hold - 1, host := rest } := by
    rw [step_host hp (by simp [hn, hw])]
    exact hostTurn_cons hw
  have hb : State.busy { s with hold := s.hold - 1, host := rest } = true := State.busy_busy hp
  exact ⟨_, hstep.trans (hostLine_wait_busy hb), hp, rfl, by simp [hn]⟩

/-- In `IDLE` a step with a `WAIT` next reads `STATUS` and goes on to the line after it. -/
theorem step_wait_idle {s : State} {rest : List HostLine} (hp : s.phase = .idle) (hw : s.host = .wait :: rest) :
    ∃ u, step s = .next u ∧ u.host = rest ∧ u.seen.head? = some (.reg 4 s.statusWord) := by
  have hb : State.busy { s with host := rest } = false := State.busy_idle hp
  exact ⟨_, (step_idle hp).trans ((hostTurn_cons hw).trans (hostLine_wait_idle hb)), rfl, rfl⟩

/-- The engine's turn completes the running command, with `DONE` set, and leaves the host's lines alone (R83, R146). -/
theorem engineTurn_completes {s : State} {l : Latched} (hp : s.phase = .busy l) :
    ∃ t, engineTurn s = .next t ∧ t.phase = .idle ∧ t.done = true ∧ t.host = s.host := by
  rcases engineTurn_cases hp with ⟨e, _, he⟩ | ⟨out, bs, _, _, _, _, he⟩
  · exact ⟨_, he, rfl, rfl, rfl⟩
  · exact ⟨_, he, rfl, rfl, rfl⟩

/-- A run takes its first step and goes on from there. -/
theorem run_succ_of_step (M : Host.Core) {s t : M.State} (h : M.step s = .next t) (k : Nat) :
    M.run (k + 1) s = M.run k t := by
  rw [Host.Core.run, h]

/-- A host that waits reaches the completion after `hold` polls and the engine's turn (R67, log 6). -/
theorem run_wait_completes {s : State} {l : Latched} {rest : List HostLine} {n : Nat} (hp : s.phase = .busy l)
    (hw : s.host = .wait :: rest) (hn : s.hold = n) :
    ∃ t, Sys2Proof.core.run (n + 1) s = .next t ∧ t.phase = .idle ∧ t.done = true ∧ t.host = .wait :: rest := by
  induction n generalizing s with
  | zero =>
    obtain ⟨t, ht, hidle, hdone, hhost⟩ := engineTurn_completes hp
    exact ⟨t, run_succ_of_step core ((step_engine hp (.inl hn)).trans ht) 0, hidle, hdone, hhost.trans hw⟩
  | succ n ih =>
    obtain ⟨t, ht, htp, htw, htn⟩ := step_wait_busy hp hw hn
    obtain ⟨u, hu, hend⟩ := ih htp htw htn
    exact ⟨u, (run_succ_of_step core ht (n + 1)).trans hu, hend⟩

/-! ## The obligations on the step -/

/-- Settles O56: by induction on `hold` the run reaches the completion, where the next poll ends the `WAIT`. -/
theorem waitTerminates : Obligations.WaitTerminates := by
  intro s l rest hp hw
  obtain ⟨t, hrun, hidle, hdone, hhost⟩ := run_wait_completes hp hw rfl
  exact ⟨t, hrun, hidle, hdone, hhost, step_wait_idle hidle hhost⟩

/-- Settles O5: the engine's turn takes the error completion, whose frame is `failWith_failed`. -/
theorem stepFailsIllegalWord : Obligations.StepFailsIllegalWord := by
  intro s l r hp hh hd
  exact ⟨_, (step_engine hp hh).trans (engineTurn_illegal hp hd), failWith_failed .illegalCommand s, rfl⟩

/-- Settles O6: the three cases of the schedule in which the host has its turn. -/
theorem stepRunsNextHostLine : Obligations.StepRunsNextHostLine := by
  refine ⟨fun s ln rest hp hc => ?_, fun s l ln rest hp hc hh => ?_, fun s hp hc => ?_⟩
  · exact (step_idle hp).trans (hostTurn_cons hc)
  · exact (step_host hp (by simp [hc, hh.ne'])).trans (hostTurn_cons hc)
  · exact (step_idle hp).trans (hostTurn_nil hc)

end Sys2Proof.Machine
end

section
/-! SUPPORT. The command model: `Check` as a list of conditions of which the first one that holds gives the code (R71),
what a completion leaves in `STATUS` (R83, R146), and the state a command starts in, from which alone it runs (R68). -/

namespace Sys2Proof.Machine

/-! ## The first condition of `Check` that holds (R71) -/

/-- The legal widths by a list of them: the powers of two from `2^2` to `2^31` (R73). -/
theorem mem_legalWidths_iff (w : Nat) :
    w ∈ (List.range 30).map (fun k => 2 ^ (k + 2)) ↔ ¬ (w < 4 ∨ isPowerOfTwo w = false) := by
  simp only [List.mem_map, List.mem_range, isPowerOfTwo, not_or, Bool.not_eq_false, List.any_eq_true, beq_iff_eq]
  constructor
  · rintro ⟨k, hk, rfl⟩
    have hfour : 2 ^ 2 ≤ 2 ^ (k + 2) := Nat.pow_le_pow_right (by omega) (by omega)
    exact ⟨by omega, k + 2, by omega, rfl⟩
  · rintro ⟨hw, k, hk, rfl⟩
    match k, hw with
    | k + 2, _ => exact ⟨k, by omega, rfl⟩

/-- Conditions 4 and 5 of `Check` with the legal widths listed (R71, R73). -/
theorem checkDimensions_eq (l : Latched) :
    checkDimensions l =
      if l.width ≠ l.height then some .dimensionMismatch
      else if l.W ∉ (List.range 30).map (fun k => 2 ^ (k + 2)) then some .invalidDimensions
      else none := by
  simp only [checkDimensions, mem_legalWidths_iff, not_not]

/-- `Check` takes the first error of its three groups of conditions: the command, the dimensions, the buffers. -/
theorem check_eq_or (i : Instr) (l : Latched) (ms : Nat) :
    check i l ms =
      (checkCommand i).or ((checkDimensions l).or (checkBuffers l (needOf i l.N) (outOf i l.N) ms)) := by
  unfold check
  cases checkCommand i <;> cases checkDimensions l <;> rfl

/-- Every command completes, with the code of `Check`'s error; without one `ERRCODE` stays as at the start (R69, R83,
R146). -/
theorem exec_completes (i : Instr) (s : State) :
    ∃ t, exec i s = .next t ∧ t.phase = .idle ∧ t.done = true ∧
      t.errCode = ((check i (s.latchFor i) s.memSize).map CmdError.code).getD (s.start i).errCode := by
  cases hc : check i (s.latchFor i) s.memSize with
  | some e => exact ⟨_, exec_of_check_some hc, rfl, rfl, rfl⟩
  | none => exact ⟨_, exec_of_check_none hc, rfl, rfl, rfl⟩

/-! ## `STATUS` at the two completions and at acceptance (R68, R83, R146) -/

/-- The place of `DROP` in `STATUS` (R27). -/
theorem eight_mul_toNat (b : Bool) : 8 * b.toNat = if b then 0x8 else 0 := by
  cases b <;> rfl

/-- After an error `STATUS` reads `DONE`, `ERR` and the code, with `DROP` as it was (R146). -/
theorem State.failWith_statusWord (s : State) (e : CmdError) :
    (s.failWith e).statusWord.toNat = 0x6 + 0x100 * e.code.toNat + (if s.drop then 0x8 else 0) := by
  have hbusy : (s.failWith e).busy = false := rfl
  rw [State.statusWord_toNat, hbusy, State.failWith_done, State.failWith_err, State.failWith_errCode,
    State.failWith_drop, eight_mul_toNat, Bool.toNat_false, Bool.toNat_true]
  omega

/-- After a success of a command that ran with `ERR` and `ERRCODE` 0, `STATUS` reads `DONE`, with `DROP` as it was
(R83). -/
theorem State.succeed_statusWord {s : State} (herr : s.err = false) (hcode : s.errCode = 0) (out : Nat) :
    (s.succeed out).statusWord.toNat = 0x2 + (if s.drop then 0x8 else 0) := by
  have hbusy : (s.succeed out).busy = false := rfl
  rw [State.statusWord_toNat, hbusy, State.succeed_done, State.succeed_err, State.succeed_errCode, State.succeed_drop,
    herr, hcode, eight_mul_toNat]
  rfl

/-- What a successful command writes to memory is no matter of `STATUS` (R83). -/
theorem commandResult_statusWord {i : Instr} {s : State} (bs : List Byte) (herr : (s.start i).err = false)
    (hcode : (s.start i).errCode = 0) :
    (commandResult i bs s).statusWord.toNat = 0x2 + (if (s.start i).drop then 0x8 else 0) :=
  State.succeed_statusWord herr hcode (outOf i (s.latchFor i).N)

/-- An accepted command is `BUSY` and nothing else (R68). -/
@[simp] theorem State.accept_statusWord (s : State) (v : Word) : (s.accept v).statusWord = 1 := by
  apply BitVec.eq_of_toNat_eq
  rw [State.statusWord_toNat]
  rfl

/-- While a command runs no error is reported: `ERR` and `ERRCODE` are 0 (R27, R30). -/
theorem Inv.noError_of_busy {s : State} (h : Inv s) (hb : s.busy = true) : s.err = false ∧ s.errCode = 0 := by
  have herr := (h.busyClear hb).1
  refine ⟨herr, not_not.mp fun hne => ?_⟩
  rw [h.errCode.mpr hne] at herr
  cases herr

/-! ## The state a command starts in (R68) -/

/-- A command that has started is running, so it starts from that state again. -/
@[simp] theorem State.start_start (s : State) (i : Instr) : (s.start i).start i = s.start i :=
  State.start_busy (s.start_phase i) i

/-- A command runs from its start state alone: the latched copy, memory and the parameters are found there. -/
theorem exec_start (i : Instr) (s : State) : exec i (s.start i) = exec i s := by
  have hlatch : (s.start i).latchFor i = s.latchFor i := State.latchFor_busy (s.start_phase i) i
  cases hc : check i (s.latchFor i) s.memSize with
  | some e =>
    rw [exec_of_check_some hc, exec_of_check_some (by rw [hlatch, State.start_memSize]; exact hc), State.start_start]
  | none =>
    rw [exec_of_check_none hc, exec_of_check_none (by rw [hlatch, State.start_memSize]; exact hc)]
    simp only [commandResult, hlatch, State.start_start, State.start_mem, State.start_params]

/-! ## The obligations -/

/-- Settles O16: after an error whatever the state, after a success because no error is reported while a command
runs. -/
theorem statusAfterCompletion : Obligations.StatusAfterCompletion := by
  intro i s h
  cases hc : check i (s.latchFor i) s.memSize with
  | some e => exact ⟨_, exec_of_check_some hc, State.failWith_statusWord _ e⟩
  | none =>
    obtain ⟨herr, hcode⟩ := (h.start i).noError_of_busy (State.busy_busy (s.start_phase i))
    exact ⟨_, exec_of_check_none hc, commandResult_statusWord _ herr hcode⟩

/-- Settles O21: the code is that of `Check`, whose conditions are tested in the order of R71. -/
theorem firstErrorReported : Obligations.FirstErrorReported := by
  refine ⟨fun s l r hp hd => ⟨_, engineTurn_illegal hp hd, rfl, rfl, rfl⟩, ?_⟩
  rintro i s l rfl
  obtain ⟨t, ht, hidle, hdone, hcode⟩ := exec_completes i s
  refine ⟨t, ht, hidle, hdone, hcode.trans ?_⟩
  rw [check_eq_or, checkCommand_eq, checkDimensions_eq, checkBuffers]
  split_ifs <;> rfl

/-- Settles O33: `blockOf` and `texelInBlock` are the inverse of `texelIndex`. -/
theorem blockMappingBijective : Obligations.BlockMappingBijective := by
  intro bw hbw
  refine ⟨fun b hb t ht => texelIndex_lt hbw hb ht, fun b b' t t' ht ht' heq => ⟨?_, ?_⟩, fun n hn => ?_⟩
  · have hblock := congrArg (blockOf (4 * bw)) heq
    rwa [blockOf_texelIndex hbw ht, blockOf_texelIndex hbw ht'] at hblock
  · have hplace := congrArg (texelInBlock (4 * bw)) heq
    rwa [texelInBlock_texelIndex hbw ht, texelInBlock_texelIndex hbw ht'] at hplace
  · exact ⟨_, blockOf_lt hbw hn, _, texelInBlock_lt _ n, texelIndex_blockOf hbw⟩

/-- Settles O4. -/
theorem stepRunsDecodedCommand : Obligations.StepRunsDecodedCommand :=
  fun _ _ _ hp hh hd => (step_engine hp hh).trans (engineTurn_ok hp hd)

/-- Settles O7: in `IDLE` the start state is the one after the acceptance. -/
theorem execInIdleAcceptsFirst : Obligations.ExecInIdleAcceptsFirst := by
  intro i s hp
  rw [← exec_start i s, State.start_idle hp]

/-- Settles O13: in `IDLE` the CMD write is the acceptance, but for the model's schedule. -/
theorem commandWriteAccepted : Obligations.CommandWriteAccepted := by
  intro s v hp
  have hline : hostLine (lineW .cmd v) s =
      .next { s.accept v with hold := s.delays.headD 0, delays := s.delays.tail } :=
    (hostLine_lineW .cmd v s).trans (congrArg Host.Outcome.next (State.writeCmd_idle hp v))
  exact ⟨_, hline, rfl, rfl, s.accept_statusWord v, rfl, rfl, rfl, rfl, rfl, by constructor <;> rfl, rfl, rfl, rfl, rfl⟩

/-- Settles O23: the table of R74, evaluated command by command. -/
theorem sizesOfCommands : Obligations.SizesOfCommands :=
  fun _ => rfl

end Sys2Proof.Machine
end

section
/-! SUPPORT. What a command leaves in its output region when it writes texel by texel (R79, R82), the bytes the unpacker
gives one texel (R86 to R91), and the outcome of a command that a condition of `Check` ends (R145, R146). -/

namespace Sys2Proof.Machine

/-! ## The outcome of a failed command (R145, R146) -/

/-- A command starts with `DST_LEN` 0: acceptance clears it, and it stays 0 while the command runs (R33, R68). -/
theorem State.start_dstLen {s : State} (h : Inv s ∨ s.phase = .idle) (i : Instr) : (s.start i).dstLen = 0 := by
  cases hp : s.phase with
  | idle => rw [State.start_idle hp, State.accept_dstLen]
  | busy l =>
    rcases h with hinv | hidle
    · rw [State.start_busy hp]
      exact (hinv.busyClear (State.busy_busy hp)).2
    · cases hp.symm.trans hidle

/-- A command that a condition of `Check` ends takes the error completion, and `DST_LEN` reads 0 after it (R33, R146). -/
theorem exec_fails {i : Instr} {s : State} {e : CmdError} (h : check i (s.latchFor i) s.memSize = some e) :
    ∃ t, exec i s = .next t ∧ Failed e (s.start i) t ∧ (Inv s ∨ s.phase = .idle → t.dstLen = 0) :=
  have hfailed := failWith_failed e (s.start i)
  ⟨_, exec_of_check_some h, hfailed, fun hs => hfailed.dstLen.trans (State.start_dstLen hs i)⟩

/-! ## The output region of a command that writes `c` bytes for each texel (R79, R82) -/

/-- `exec_ready` for a raster: byte `j` of what the command writes for texel `n` stands at `L.DST_ADDR + c n + j`. -/
theorem exec_ready_raster {i : Instr} (hi : checkCommand i = none) {s : State}
    (hr : Ready (needOf i (s.latchFor i).N) (outOf i (s.latchFor i).N) (s.latchFor i) s.memSize)
    {c : Nat} {f : Nat → List Byte}
    (hperform : performOf i (s.latchFor i) s.params s.mem = rasterBytes (s.latchFor i).N f)
    (hf : ∀ n, (f n).length = c) :
    ∃ t, exec i s = .next t ∧ Completed (s.latchFor i).dst (outOf i (s.latchFor i).N) (s.start i) t ∧
      ∀ n < (s.latchFor i).N, ∀ j b, (f n)[j]? = some b → t.mem.read ((s.latchFor i).dst + c * n + j) = b := by
  obtain ⟨t, ht, hdone, hread⟩ := exec_ready hi hr
  refine ⟨t, ht, hdone, fun n hn j b hj => ?_⟩
  have hjc : j < c := hf n ▸ (List.getElem?_eq_some_iff.mp hj).1
  rw [Nat.add_assoc]
  apply hread
  rw [hperform, rasterBytes_getElem? _ (fun k _ => hf k) hn hjc, hj]

/-- Memory that holds four bytes in order holds them as a texel (R10, R43). -/
theorem holdsTexel_of_bytes {m : Memory} {a : Nat} {b g r al : Byte}
    (h : ∀ j x, [b, g, r, al][j]? = some x → m.read (a + j) = x) : HoldsTexel m a b g r al :=
  ⟨h 0 b rfl, h 1 g rfl, h 2 r rfl, h 3 al rfl⟩

/-- A texel whose colours were copied from consecutive bytes reads as those bytes. -/
theorem HoldsTexel.read_colour {m m' : Memory} {a a' : Nat} {al : Byte}
    (h : HoldsTexel m a (m'.read a') (m'.read (a' + 1)) (m'.read (a' + 2)) al) {k : Nat} (hk : k < 3) :
    m.read (a + k) = m'.read (a' + k) := by
  obtain ⟨hb, hg, hr, _⟩ := h
  match k, hk with
  | 0, _ => exact hb
  | 1, _ => exact hg
  | 2, _ => exact hr

/-! ## The bytes of one texel (R86 to R91) -/

theorem Memory.bytes_getElem?_of_lt (m : Memory) (a : Nat) {n k : Nat} (hk : k < n) :
    (m.bytes a n)[k]? = some (m.read (a + k)) := by
  simp [Memory.bytes, hk]

/-- ENC.STD24 writes the first three bytes of each texel (R90). -/
theorem performEncStd24_eq (l : Latched) (p : Params) (m : Memory) :
    performEncStd24 l p m = rasterBytes l.N fun n => m.bytes (l.src + 4 * n) 3 := rfl

/-- The bytes of a 5-5-5 word, with the three fields written as arithmetic on the word (R85, R89). -/
theorem std16Texel_bytes (p : Nat) :
    (std16Texel p).bytes = [BitVec.ofNat 8 (p % 32 * 255 / 31), BitVec.ofNat 8 (p / 32 % 32 * 255 / 31),
      BitVec.ofNat 8 (p / 1024 % 32 * 255 / 31), 255] := by
  simp [Texel.bytes, std16Texel, expand5, bitField, u8]

/-- A little-endian word of two bytes (R7). -/
theorem Memory.memRead_two (m : Memory) (a : Nat) :
    m.memRead a 2 = (m.read a).toNat + 256 * (m.read (a + 1)).toNat := rfl

/-- The three commands that copy read 4 bytes and write 4 bytes for each texel, the same ones (R74, R87, R88, R91). -/
theorem identityCopy_perform {i : Instr} (hi : i ∈ [Instr.decStd32, .decFs32, .encFs32]) :
    checkCommand i = none ∧ (∀ n, needOf i n = 4 * n) ∧ (∀ n, outOf i n = 4 * n) ∧
      ∀ l p m, performOf i l p m = m.bytes l.src (4 * l.N) := by
  simp only [List.mem_cons, List.not_mem_nil, or_false] at hi
  rcases hi with rfl | rfl | rfl
  · exact ⟨rfl, fun _ => rfl, fun _ => rfl, fun _ _ _ => rfl⟩
  · exact ⟨rfl, fun _ => rfl, fun _ => rfl, fun _ _ _ => rfl⟩
  · exact ⟨rfl, fun _ => rfl, fun _ => rfl, fun _ _ _ => rfl⟩

/-! ## The obligations -/

/-- Settles O25: the command writes a texel of three input bytes and 255 for each texel. -/
theorem decStd24Result : Obligations.DecStd24Result := by
  rintro s _ rfl hr
  obtain ⟨t, ht, hdone, hread⟩ := exec_ready_raster (i := .decStd24) (c := 4) rfl hr rfl fun _ => rfl
  exact ⟨t, ht, hdone, fun n hn => holdsTexel_of_bytes (hread n hn)⟩

/-- Settles O26: all three perform the copy of their input bytes. -/
theorem identityCopyResult : Obligations.IdentityCopyResult := by
  rintro i hi s _ rfl hr
  obtain ⟨hc, hneed, hout, hperform⟩ := identityCopy_perform hi
  obtain ⟨t, ht, hdone, hread⟩ := exec_ready hc (by rw [hneed, hout]; exact hr)
  rw [hout] at hdone
  rw [hperform] at hread
  exact ⟨t, ht, hdone, fun k hk => hread k _ (s.mem.bytes_getElem?_of_lt _ hk)⟩

/-- Settles O27: the command writes the texel of `std16Texel_bytes` for each word. -/
theorem decStd16Result : Obligations.DecStd16Result := by
  rintro s _ rfl hr
  obtain ⟨t, ht, hdone, hread⟩ := exec_ready_raster (i := .decStd16) rfl hr rfl fun _ => Texel.bytes_length _
  refine ⟨t, ht, hdone, fun n hn p hp => holdsTexel_of_bytes ?_⟩
  rw [hp, ← Memory.memRead_two, ← std16Texel_bytes]
  exact hread n hn

/-- Settles O28: the command writes the first three bytes of each texel. -/
theorem encStd24Result : Obligations.EncStd24Result := by
  rintro s _ rfl hr
  obtain ⟨t, ht, hdone, hread⟩ := exec_ready_raster (i := .encStd24) rfl hr (performEncStd24_eq _ s.params _)
    fun _ => Memory.bytes_length _ _ _
  exact ⟨t, ht, hdone, fun n hn k hk => hread n hn k _ (s.mem.bytes_getElem?_of_lt _ hk)⟩

/-- Settles O29: byte `3n + j` of the output is byte `j` of texel `n` of the raster, which is byte `3n + j` of the
input. -/
theorem std24RoundTrip : Obligations.Std24RoundTrip := by
  intro s t u l l' hl hr ht hmem hl' hsrc hN hr'
  obtain ⟨t₁, ht₁, _, hdec⟩ := decStd24Result s l hl hr
  obtain ⟨v, hv, _, henc⟩ := encStd24Result u l' hl' hr'
  obtain rfl : t = t₁ := Host.Outcome.next.inj (ht.symm.trans ht₁)
  have hbyte : ∀ n < l.N, ∀ j < 3, v.mem.read (l'.dst + 3 * n + j) = s.mem.read (l.src + 3 * n + j) := by
    intro n hn j hj
    calc v.mem.read (l'.dst + 3 * n + j)
        = t.mem.read (l.dst + 4 * n + j) := by rw [henc n (hN ▸ hn) j hj, hmem, hsrc]
      _ = s.mem.read (l.src + 3 * n + j) := (hdec n hn).read_colour hj
  refine ⟨v, hv, fun k hk => ?_⟩
  have hk' := hbyte (k / 3) (by omega) (k % 3) (by omega)
  rwa [Nat.add_assoc, Nat.add_assoc, Nat.div_add_mod] at hk'

/-- Settles O24: the word, the condition of `Check` and the code of each of the 15 rows are evaluated; `exec_fails` says
what the command does. -/
theorem commandsThatRaise : Obligations.CommandsThatRaise := by
  intro p hp
  have hrow : encode p.1 = p.2.1 ∧ checkCommand p.1 = some p.2.2.1 ∧ p.2.2.1.code = p.2.2.2 := by
    revert p
    decide
  obtain ⟨hword, hcheck, hcode⟩ := hrow
  refine ⟨hword, fun s => ?_⟩
  obtain ⟨t, ht, hfailed, hlen⟩ := exec_fails (s := s) (check_of_checkCommand hcheck _ _)
  exact ⟨t, ht, hfailed, hfailed.errCode.trans hcode, hlen⟩

/-- Settles O34: the formulas are the definitions, the tables are evaluated. -/
theorem expansionTables : Obligations.ExpansionTables :=
  ⟨fun _ _ => rfl, fun _ _ => rfl, rfl, rfl⟩

end Sys2Proof.Machine
end

section
/-! SUPPORT. The channels of DEC.MASK16 as one list of bytes: the cumulative divisor is 1 plus the masks before (R94), and
a mask that continues the ones before it without gap selects a field shifted to bit 0 (R94, R96). -/

namespace Sys2Proof.Machine

/-! ## The channels of one word (R93, R94) -/

/-- The loop of R93 over one channel: whether the mask is 0 decides the byte alone, since a zero mask adds nothing to the
divisor of the channels after it (R94). -/
theorem maskChannels_cons (p d m dflt : Nat) (rest : List (Nat × Nat)) :
    maskChannels p d ((m, dflt) :: rest) =
      (if m ≠ 0 then u8 ((p &&& m) / d) else u8 dflt) :: maskChannels p (d + m) rest := by
  rw [maskChannels]
  by_cases hm : m = 0
  · simp only [hm, ne_eq, not_true_eq_false, if_false, Nat.add_zero]
  · simp only [ne_eq, hm, not_false_eq_true, if_true]

/-- The four bytes of the word `p`, each with its divisor written out (R94): blue divides by 1. -/
theorem maskChannels_maskList (p : Nat) (l : Latched) :
    maskChannels p 1 (maskList l) =
      [if l.maskB.toNat ≠ 0 then BitVec.ofNat 8 (p &&& l.maskB.toNat) else 0,
        if l.maskG.toNat ≠ 0 then BitVec.ofNat 8 ((p &&& l.maskG.toNat) / (1 + l.maskB.toNat)) else 0,
        if l.maskR.toNat ≠ 0 then
          BitVec.ofNat 8 ((p &&& l.maskR.toNat) / (1 + l.maskB.toNat + l.maskG.toNat)) else 0,
        if l.maskA.toNat ≠ 0 then
          BitVec.ofNat 8 ((p &&& l.maskA.toNat) / (1 + l.maskB.toNat + l.maskG.toNat + l.maskR.toNat)) else 255] := by
  simp only [maskList, maskChannels_cons, Nat.div_one]
  rfl

/-! ## Masks without gap (R94, R96) -/

/-- A mask of `w` ones from bit `s` up, divided by the weight of bit `s`, selects the field of `w` bits at bit `s`. -/
theorem and_fieldMask_div (p s w : Nat) : (p &&& 2 ^ s * (2 ^ w - 1)) / 2 ^ s = p / 2 ^ s % 2 ^ w := by
  calc (p &&& 2 ^ s * (2 ^ w - 1)) / 2 ^ s
      = p / 2 ^ s &&& 2 ^ s * (2 ^ w - 1) / 2 ^ s := Nat.and_div_two_pow
    _ = p / 2 ^ s &&& 2 ^ w - 1 := by rw [Nat.mul_div_cancel_left _ (Nat.two_pow_pos s)]
    _ = p / 2 ^ s % 2 ^ w := Nat.and_two_pow_sub_one_eq_mod _ _

/-- A mask that starts at the bit whose weight is the divisor gives its field, and leaves as divisor the weight of the bit
above it (R94). -/
theorem maskChannels_field (p s dflt : Nat) {w : Nat} (hw : 0 < w) (rest : List (Nat × Nat)) :
    maskChannels p (2 ^ s) ((2 ^ s * (2 ^ w - 1), dflt) :: rest) =
      u8 (p / 2 ^ s % 2 ^ w) :: maskChannels p (2 ^ (s + w)) rest := by
  have hones : 2 ^ w - 1 ≠ 0 := (Nat.sub_pos_of_lt (Nat.one_lt_two_pow hw.ne')).ne'
  have hmask : 2 ^ s * (2 ^ w - 1) ≠ 0 := Nat.mul_ne_zero (Nat.two_pow_pos s).ne' hones
  have hnext : 2 ^ s + 2 ^ s * (2 ^ w - 1) = 2 ^ (s + w) := by
    rw [Nat.mul_sub_one, ← Nat.pow_add, Nat.add_sub_cancel' (Nat.pow_le_pow_right Nat.two_pos (Nat.le_add_right s w))]
  rw [maskChannels_cons, if_pos hmask, and_fieldMask_div, hnext]

/-! ## The obligations -/

/-- Settles O30: the command writes the four bytes of `maskChannels_maskList` for each word. -/
theorem decMask16Result : Obligations.DecMask16Result := by
  rintro s _ _ _ _ _ rfl rfl rfl rfl rfl hr
  obtain ⟨t, ht, hdone, hread⟩ := exec_ready_raster (i := .decMask16) rfl hr rfl fun _ => maskChannels_length _ _ _
  refine ⟨t, ht, hdone, fun n hn p hp => holdsTexel_of_bytes ?_⟩
  rw [hp, ← Memory.memRead_two, ← maskChannels_maskList]
  exact hread n hn

/-- Settles O31: with its mask 0 each channel of `decMask16Result` is its default. -/
theorem zeroMasks : Obligations.ZeroMasks := by
  intro s t l n hl hr ht hn
  obtain ⟨t₁, ht₁, _, htexels⟩ := decMask16Result s l _ _ _ _ hl rfl rfl rfl rfl hr
  obtain rfl : t = t₁ := Host.Outcome.next.inj (ht.symm.trans ht₁)
  obtain ⟨hblue, hgreen, hred, halpha⟩ := htexels n hn _ rfl
  refine ⟨fun h => ?_, fun h => ?_, fun h => ?_, fun h => ?_⟩
  · rw [halpha, h]; rfl
  · rw [hblue, h]; rfl
  · rw [hgreen, h]; rfl
  · rw [hred, h]; rfl

/-- Settles O32: the divisor before blue is the weight of bit 0, and each mask starts where the one before it ends. -/
theorem contiguousMasksShift : Obligations.ContiguousMasksShift := by
  intro p b g r a hb hg hr ha
  have hblue := maskChannels_field p 0 0 hb
  rw [Nat.pow_zero, Nat.one_mul, Nat.div_one, Nat.zero_add] at hblue
  rw [hblue, maskChannels_field p b 0 hg, maskChannels_field p (b + g) 0 hr, maskChannels_field p (b + g + r) 255 ha]
  rfl

end Sys2Proof.Machine
end

section
/-! SUPPORT. The block decoder: the fields of an index word (R101, R104, R107), the two palettes entry by entry (R100,
R106), and where the block frame leaves texel `k` of block `b` (R97). -/

namespace Sys2Proof.Machine

/-! ## Fields of an index word (R5, R101, R104, R107) -/

/-- Field `k` of a word of fields of `w` bits, the first in the lowest bits. -/
theorem bitField_packed (v : Nat) {w hi k : Nat} (hhi : hi + 1 = w * k + w) :
    bitField v hi (w * k) = v / (2 ^ w) ^ k % 2 ^ w := by
  rw [bitField, hhi, Nat.add_sub_cancel_left, Nat.pow_mul]

/-- A little-endian word of one byte is that byte (R7). -/
theorem Memory.memRead_one (m : Memory) (a : Nat) : m.memRead a 1 = (m.read a).toNat := rfl

/-! ## The colour palettes (R98 to R100) -/

/-- Every component of the colour fits a byte. -/
def Colour.InRange (c : Colour) : Prop := c.b ≤ 255 ∧ c.g ≤ 255 ∧ c.r ≤ 255

/-- Every component of the texel fits a byte. -/
def Texel.InRange (t : Texel) : Prop := t.b ≤ 255 ∧ t.g ≤ 255 ∧ t.r ≤ 255 ∧ t.a ≤ 255

/-- The fields of a 16-bit colour as arithmetic on the word: red is the five highest bits (R98, R99). -/
theorem expand565_eq {c : Nat} (hc : c < 65536) :
    expand565 c = ⟨c % 32 * 255 / 31, c / 32 % 64 * 255 / 63, c / 2048 * 255 / 31⟩ := by
  have hblue : bitField c 4 0 = c % 32 := congrArg (· % 32) (Nat.div_one c)
  have hred : bitField c 15 11 = c / 2048 := Nat.mod_eq_of_lt (Nat.div_lt_of_lt_mul hc)
  rw [expand565, hblue, hred]
  rfl

theorem expand5_le {v : Nat} (h : v < 32) : expand5 v ≤ 255 := by
  unfold expand5; omega

theorem expand6_le {v : Nat} (h : v < 64) : expand6 v ≤ 255 := by
  unfold expand6; omega

/-- Expansion keeps to a byte because every field keeps to its width (R85, R99). -/
theorem expand565_inRange (c : Nat) : (expand565 c).InRange :=
  ⟨expand5_le (Nat.mod_lt _ (by decide)), expand6_le (Nat.mod_lt _ (by decide)), expand5_le (Nat.mod_lt _ (by decide))⟩

theorem Colour.InRange.opaqueTexel {c : Colour} (h : c.InRange) : c.opaqueTexel.InRange := by
  obtain ⟨hb, hg, hr⟩ := h
  exact ⟨hb, hg, hr, le_rfl⟩

theorem blendThird_le {x y : Nat} (hx : x ≤ 255) (hy : y ≤ 255) : blendThird x y ≤ 255 := by
  unfold blendThird; omega

theorem blendHalf_le {x y : Nat} (hx : x ≤ 255) (hy : y ≤ 255) : blendHalf x y ≤ 255 := by
  unfold blendHalf; omega

/-- The blend of entry 3 is that of entry 2 with the endpoints exchanged (R100). -/
theorem blendThird_swap (x y : Nat) : blendThird y x = (x + 2 * y) / 3 :=
  congrArg (· / 3) (Nat.add_comm _ _)

theorem palette4_inRange {x y : Colour} (hx : x.InRange) (hy : y.InRange) (j : Nat) : (palette4 x y j).InRange := by
  have ⟨hxb, hxg, hxr⟩ := hx
  have ⟨hyb, hyg, hyr⟩ := hy
  match j with
  | 0 => exact hx.opaqueTexel
  | 1 => exact hy.opaqueTexel
  | 2 => exact ⟨blendThird_le hxb hyb, blendThird_le hxg hyg, blendThird_le hxr hyr, le_rfl⟩
  | _ + 3 => exact ⟨blendThird_le hyb hxb, blendThird_le hyg hxg, blendThird_le hyr hxr, le_rfl⟩

theorem palette3_inRange {x y : Colour} (hx : x.InRange) (hy : y.InRange) (tr : Bool) (j : Nat) :
    (palette3 x y tr j).InRange := by
  have ⟨hxb, hxg, hxr⟩ := hx
  have ⟨hyb, hyg, hyr⟩ := hy
  match j with
  | 0 => exact hx.opaqueTexel
  | 1 => exact hy.opaqueTexel
  | 2 => exact ⟨blendHalf_le hxb hyb, blendHalf_le hxg hyg, blendHalf_le hxr hyr, le_rfl⟩
  | _ + 3 =>
    refine ⟨Nat.zero_le _, Nat.zero_le _, Nat.zero_le _, ?_⟩
    show (if tr then 0 else 255) ≤ 255
    split <;> omega

/-- The palette a colour block selects when it is of four colours (R101). -/
theorem colourPalette_four {mode : ColourMode} {c0 c1 : Nat} (h : mode = .four ∨ c1 < c0) (j : Nat) :
    colourPalette mode c0 c1 j = palette4 (expand565 c0) (expand565 c1) j := if_pos h

/-- The palette a colour block selects when it is of three colours (R101). -/
theorem colourPalette_three {mode : ColourMode} {c0 c1 : Nat} (h : ¬ (mode = .four ∨ c1 < c0)) (j : Nat) :
    colourPalette mode c0 c1 j = palette3 (expand565 c0) (expand565 c1) (mode == .dxt1a) j := if_neg h

/-- Entries 0 and 1 are the endpoints in both palettes (R100). -/
theorem colourPalette_endpoints (mode : ColourMode) (c0 c1 : Nat) :
    colourPalette mode c0 c1 0 = (expand565 c0).opaqueTexel ∧
      colourPalette mode c0 c1 1 = (expand565 c1).opaqueTexel := by
  by_cases h : mode = .four ∨ c1 < c0
  · exact ⟨colourPalette_four h 0, colourPalette_four h 1⟩
  · exact ⟨colourPalette_three h 0, colourPalette_three h 1⟩

theorem colourPalette_inRange (mode : ColourMode) (c0 c1 j : Nat) : (colourPalette mode c0 c1 j).InRange := by
  by_cases h : mode = .four ∨ c1 < c0
  · rw [colourPalette_four h]
    exact palette4_inRange (expand565_inRange c0) (expand565_inRange c1) j
  · rw [colourPalette_three h]
    exact palette3_inRange (expand565_inRange c0) (expand565_inRange c1) _ j

/-! ## The alpha palette (R106) -/

/-- With `a0 > a1` the entries from 2 up are blends over 7 (R106). -/
theorem alphaPalette_seventh {a0 a1 k : Nat} (h : a1 < a0) (hk : 1 ≤ k) :
    alphaPalette a0 a1 (k + 1) = ((7 - k) * a0 + k * a1) / 7 := by
  rw [alphaPalette, if_neg (by omega), if_neg (by omega), if_pos h, Nat.add_sub_cancel, Nat.add_sub_add_right 7 1 k]

/-- With `a0 <= a1` entries 2 to 5 are blends over 5 (R106). -/
theorem alphaPalette_fifth {a0 a1 k : Nat} (h : a0 ≤ a1) (hk : 1 ≤ k) (hk4 : k ≤ 4) :
    alphaPalette a0 a1 (k + 1) = ((5 - k) * a0 + k * a1) / 5 := by
  rw [alphaPalette, if_neg (by omega), if_neg (by omega), if_neg (by omega), if_pos (by omega), Nat.add_sub_cancel,
    Nat.add_sub_add_right 5 1 k]

/-- With `a0 <= a1` entries 6 and 7 are the two extremes (R106). -/
theorem alphaPalette_extremes {a0 a1 : Nat} (h : a0 ≤ a1) : alphaPalette a0 a1 6 = 0 ∧ alphaPalette a0 a1 7 = 255 := by
  simp [alphaPalette, Nat.not_lt.mpr h]

/-- A blend whose weights `d - k` and `k` add up to its divisor stays below any bound of both its endpoints. -/
theorem blend_le {x y c d k : Nat} (hk : k ≤ d) (hx : x ≤ c) (hy : y ≤ c) :
    ((d - k) * x + k * y) / d ≤ c := by
  apply Nat.div_le_of_le_mul
  calc (d - k) * x + k * y
      ≤ (d - k) * c + k * c := Nat.add_le_add (Nat.mul_le_mul_left _ hx) (Nat.mul_le_mul_left _ hy)
    _ = d * c := by rw [← Nat.add_mul, Nat.sub_add_cancel hk]

/-- Every entry of the alpha palette of two bytes is a byte (R106). -/
theorem alphaPalette_le {a0 a1 j : Nat} (h0 : a0 ≤ 255) (h1 : a1 ≤ 255) (hj : j ≤ 7) : alphaPalette a0 a1 j ≤ 255 := by
  match j with
  | 0 => exact h0
  | 1 => exact h1
  | k + 2 =>
    rcases Nat.lt_or_ge a1 a0 with h | h
    · rw [alphaPalette_seventh h (Nat.le_add_left 1 k)]
      exact blend_le (by omega) h0 h1
    · rcases (by omega : k + 1 ≤ 4 ∨ k = 4 ∨ k = 5) with hk | rfl | rfl
      · rw [alphaPalette_fifth h (Nat.le_add_left 1 k) hk]
        exact blend_le (by omega) h0 h1
      · exact (alphaPalette_extremes h).1.trans_le (Nat.zero_le _)
      · exact (alphaPalette_extremes h).2.le

/-! ## The texel decoders with their index fields as arithmetic (R101, R104, R107) -/

/-- Texel `k` of a colour block takes the palette entry that field `k` of the 2-bit indices selects (R101). -/
theorem colourBlock_eq (mode : ColourMode) (m : Memory) (a k : Nat) :
    colourBlock mode m a k =
      colourPalette mode (m.memRead a 2) (m.memRead (a + 2) 2) (m.memRead (a + 4) 4 / 4 ^ k % 4) :=
  congrArg (colourPalette mode _ _) (bitField_packed _ (w := 2) rfl)

/-- Texel `k` of a DXT3 block has 17 times nibble `k` as its alpha (R104, R105). -/
theorem dxt3Texel_alpha (m : Memory) (a k : Nat) : (dxt3Texel m a k).a = 17 * (m.memRead a 8 / 16 ^ k % 16) :=
  congrArg (17 * ·) (bitField_packed _ (w := 4) rfl)

/-- Texel `k` of a DXT5 block takes the alpha that field `k` of the 3-bit indices selects (R107, R108). -/
theorem dxt5Texel_alpha (m : Memory) (a k : Nat) :
    (dxt5Texel m a k).a =
      alphaPalette (m.read a).toNat (m.read (a + 1)).toNat (m.memRead (a + 2) 6 / 8 ^ k % 8) := by
  rw [← m.memRead_one a, ← m.memRead_one (a + 1)]
  exact congrArg (alphaPalette _ _) (bitField_packed _ (w := 3) rfl)

/-! ## The block frame (R80, R97) -/

/-- `exec_ready` for the block frame: texel `k` of block `b` stands at raster texel `n(b, k)`. -/
theorem exec_ready_blocks {i : Instr} (hi : checkCommand i = none) {s : State}
    (hr : Ready (needOf i (s.latchFor i).N) (outOf i (s.latchFor i).N) (s.latchFor i) s.memSize)
    {bs : Nat} {decodeTexel : Memory → Nat → Nat → Texel}
    (hperform : performOf i (s.latchFor i) s.params s.mem = blockDecodeBytes bs decodeTexel (s.latchFor i) s.mem) :
    ∃ t, exec i s = .next t ∧ Completed (s.latchFor i).dst (outOf i (s.latchFor i).N) (s.start i) t ∧
      ∀ b < (s.latchFor i).NB, ∀ k < 16, ∀ x, decodeTexel s.mem ((s.latchFor i).src + bs * b) k = x →
        HoldsTexel t.mem ((s.latchFor i).dst + 4 * texelIndex (s.latchFor i).W b k) (u8 x.b) (u8 x.g) (u8 x.r)
          (u8 x.a) := by
  obtain ⟨bw, hbw, hW, hN, hNB⟩ := hr.size.counts
  obtain ⟨t, ht, hdone, hread⟩ := exec_ready_raster hi hr hperform fun _ => Texel.bytes_length _
  refine ⟨t, ht, hdone, fun b hb k hk x hx => holdsTexel_of_bytes ?_⟩
  have hn : texelIndex (s.latchFor i).W b k < (s.latchFor i).N := by
    rw [hW, hN]
    exact texelIndex_lt hbw (hNB ▸ hb) hk
  have hblock : blockOf (s.latchFor i).W (texelIndex (s.latchFor i).W b k) = b := by
    rw [hW]
    exact blockOf_texelIndex hbw hk
  have hplace : texelInBlock (s.latchFor i).W (texelIndex (s.latchFor i).W b k) = k := by
    rw [hW]
    exact texelInBlock_texelIndex hbw hk
  have hbytes := hread _ hn
  rwa [hblock, hplace, hx] at hbytes

/-- The two DXT1 commands read half a byte for each texel, write 4 bytes for it, and run the block frame on colour
blocks of 8 bytes (R74, R102, R103). -/
theorem decDxt1_perform {p : Instr × ColourMode} (hp : p ∈ [(Instr.decDxt1, ColourMode.dxt1), (.decDxt1a, .dxt1a)]) :
    checkCommand p.1 = none ∧ (∀ n, needOf p.1 n = n / 2) ∧ (∀ n, outOf p.1 n = 4 * n) ∧
      ∀ l ps m, performOf p.1 l ps m = blockDecodeBytes 8 (colourBlock p.2) l m := by
  simp only [List.mem_cons, List.not_mem_nil, or_false] at hp
  rcases hp with rfl | rfl
  · exact ⟨rfl, fun _ => rfl, fun _ => rfl, fun _ _ _ => rfl⟩
  · exact ⟨rfl, fun _ => rfl, fun _ => rfl, fun _ _ _ => rfl⟩

/-! ## The obligations -/

/-- Settles O35: which palette is selected decides entries 2 and 3; entries 0 and 1 are the endpoints in both. -/
theorem colourPaletteEntries : Obligations.ColourPaletteEntries := by
  intro mode c0 c1 hc0 hc1 x y hx hy
  obtain rfl : expand565 c0 = x := (expand565_eq hc0).trans hx.symm
  obtain rfl : expand565 c1 = y := (expand565_eq hc1).trans hy.symm
  obtain ⟨hentry0, hentry1⟩ := colourPalette_endpoints mode c0 c1
  refine ⟨hentry0, hentry1, fun h => ⟨colourPalette_four h 2, ?_⟩, fun h => ⟨colourPalette_three h 2, ?_⟩,
    colourPalette_inRange mode c0 c1⟩
  · simp only [colourPalette_four h, palette4, blendThird_swap]
  · simp only [colourPalette_three h, palette3, beq_iff_eq]

/-- Settles O36: the comparison of the endpoints decides between the blends over 7 and those over 5. -/
theorem alphaPaletteEntries : Obligations.AlphaPaletteEntries := by
  intro a0 a1 h0 h1
  exact ⟨rfl, rfl, fun h _ hk _ => alphaPalette_seventh h hk,
    fun h => ⟨fun _ hk hk4 => alphaPalette_fifth h hk hk4, alphaPalette_extremes h⟩,
    fun _ hj => alphaPalette_le h0 h1 hj⟩

/-- Settles O37: both commands run the block frame on the texels of `colourBlock_eq`. -/
theorem decDxt1Result : Obligations.DecDxt1Result := by
  rintro p hp s _ rfl hr
  obtain ⟨hc, hneed, hout, hperform⟩ := decDxt1_perform hp
  obtain ⟨t, ht, hdone, htexels⟩ := exec_ready_blocks hc (by rw [hneed, hout]; exact hr) (hperform _ s.params _)
  rw [hout] at hdone
  exact ⟨t, ht, hdone, fun b hb k hk x hx => htexels b hb k hk x ((colourBlock_eq _ _ _ _).trans hx.symm)⟩

/-- Settles O38: the colour is that of the four-colour block at `+8`, the alpha that of `dxt3Texel_alpha`. -/
theorem decDxt3Result : Obligations.DecDxt3Result := by
  rintro s _ rfl hr
  obtain ⟨t, ht, hdone, htexels⟩ := exec_ready_blocks (i := .decDxt3) (bs := 16) rfl hr rfl
  refine ⟨t, ht, hdone, fun b hb k hk x hx => ?_⟩
  obtain rfl := hx.trans (colourBlock_eq .four s.mem _ k).symm
  rw [← dxt3Texel_alpha]
  exact htexels b hb k hk _ rfl

/-- Settles O39: the colour is that of the four-colour block at `+8`, the alpha that of `dxt5Texel_alpha`. -/
theorem decDxt5Result : Obligations.DecDxt5Result := by
  rintro s _ rfl hr
  obtain ⟨t, ht, hdone, htexels⟩ := exec_ready_blocks (i := .decDxt5) (bs := 16) rfl hr rfl
  refine ⟨t, ht, hdone, fun b hb k hk x hx => ?_⟩
  obtain rfl := hx.trans (colourBlock_eq .four s.mem _ k).symm
  rw [← dxt5Texel_alpha]
  exact htexels b hb k hk _ rfl

end Sys2Proof.Machine
end

section
/-! SUPPORT. The block encoder: the texels it gathers (R109), the endpoint arithmetic (R111 to R114), the packed colours
(R115, R116), the distance as a square root (R118), the selected index as a first minimum (R119), and the fields of an
encoded block (R121). -/

namespace Sys2Proof.Machine

/-! ## What is gathered (R109) -/

@[simp] theorem gather_length (l : Latched) (m : Memory) (b : Nat) : (gather l m b).length = 16 := by
  simp [gather]

theorem gather_getElem? (l : Latched) (m : Memory) (b : Nat) {k : Nat} (hk : k < 16) :
    (gather l m b)[k]? = some (rasterTexel m l.src (texelIndex l.W b k)) := by
  simp [gather, hk]

theorem rasterTexel_inRange (m : Memory) (src n : Nat) : (rasterTexel m src n).InRange :=
  ⟨Nat.le_of_lt_succ (BitVec.isLt _), Nat.le_of_lt_succ (BitVec.isLt _), Nat.le_of_lt_succ (BitVec.isLt _),
    Nat.le_of_lt_succ (BitVec.isLt _)⟩

theorem gather_inRange {l : Latched} {m : Memory} {b : Nat} {x : Texel} (hx : x ∈ gather l m b) : x.InRange := by
  obtain ⟨t, _, rfl⟩ := List.mem_map.mp hx
  exact rasterTexel_inRange m l.src _

/-! ## Averages, deviations and endpoints (R6, R111 to R114) -/

theorem coe_clamp (v : Int) : (clamp v : Int) = min (max v 0) 255 := by
  unfold clamp; omega

theorem clamp_le (v : Int) : clamp v ≤ 255 := by
  unfold clamp; omega

/-- The average of 16 components keeps any bound that they have. -/
theorem average_le {ch : Texel → Nat} {ts : List Texel} {c : Nat} (hlen : ts.length = 16) (h : ∀ x ∈ ts, ch x ≤ c) :
    average ch ts ≤ c := by
  have hsum : (ts.map ch).sum ≤ 16 * c := by
    simpa [hlen] using List.sum_le_card_nsmul (ts.map ch) c (List.forall_mem_map.mpr h)
  unfold average
  omega

/-- The red deviation with its own sign is its absolute value (R112, R113). -/
theorem redSign_mul_red (avgR : Nat) (t : Texel) : redSign avgR t * ((t.r : Int) - avgR) = |(t.r : Int) - avgR| := by
  unfold redSign
  split
  · rw [one_mul, abs_of_nonneg (by omega)]
  · rw [neg_one_mul, abs_of_neg (by omega)]

theorem abs_redSign_mul (avgR : Nat) (t : Texel) (v : Int) : |redSign avgR t * v| = |v| := by
  unfold redSign
  split
  · rw [one_mul]
  · rw [neg_one_mul, abs_neg]

/-- For red the signed sum is the sum of the absolute deviations (R113). -/
theorem signedSum_red (avgR : Nat) (ts : List Texel) :
    signedSum Texel.r avgR avgR ts = (ts.map fun x => |(x.r : Int) - avgR|).sum := by
  simp only [signedSum, redSign_mul_red]

/-- A sum of terms of absolute value at most `c` is at most `c` for each term. -/
theorem abs_sum_map_le {α : Type} {f : α → Int} {xs : List α} {c : Int} (h : ∀ x ∈ xs, |f x| ≤ c) :
    |(xs.map f).sum| ≤ xs.length * c := by
  have hlo := List.card_nsmul_le_sum (xs.map f) (-c) (List.forall_mem_map.mpr fun x hx => (abs_le.mp (h x hx)).1)
  have hhi := List.sum_le_card_nsmul (xs.map f) c (List.forall_mem_map.mpr fun x hx => (abs_le.mp (h x hx)).2)
  simp only [List.length_map, nsmul_eq_mul, mul_neg] at hlo hhi
  exact abs_le.mpr ⟨hlo, hhi⟩

/-- No deviation of a component up to `c` from an average up to `c` is more than `c`, so the signed sum is at most `c`
for each texel (R113). -/
theorem abs_signedSum_le {ch : Texel → Nat} {ts : List Texel} {avg c : Nat} (avgR : Nat) (h : ∀ x ∈ ts, ch x ≤ c)
    (havg : avg ≤ c) : |signedSum ch avg avgR ts| ≤ ts.length * c := by
  refine abs_sum_map_le fun x hx => ?_
  have hc := h x hx
  rw [abs_redSign_mul, abs_le]
  omega

/-- Dividing toward zero by 8 and then by 3 takes the bound `16 * 255` to 170 (R113). -/
theorem abs_tdiv_eight_tdiv_three_le {S : Int} (h : |S| ≤ 16 * 255) : |(S.tdiv 8).tdiv 3| ≤ 170 := by
  have hdiv : ((S.tdiv 8).tdiv 3).natAbs = S.natAbs / 8 / 3 := by
    rw [Int.natAbs_tdiv, Int.natAbs_tdiv]; rfl
  rw [Int.abs_eq_natAbs] at h ⊢
  omega

/-- The red axis points to the greater red (R113). -/
theorem deviation_red_nonneg (ts : List Texel) : 0 ≤ deviation Texel.r ts := by
  have hsum : 0 ≤ signedSum Texel.r (average Texel.r ts) (average Texel.r ts) ts := by
    rw [signedSum_red]
    exact List.sum_nonneg (List.forall_mem_map.mpr fun _ _ => abs_nonneg _)
  exact Int.tdiv_nonneg (Int.tdiv_nonneg hsum (by decide)) (by decide)

/-- In each of the three channels, the endpoints are the average and the deviation of that channel, added and
subtracted (R114), and a texel in range is in range in that channel. -/
theorem endpoints_channel {p : (Texel → Nat) × (Colour → Nat)}
    (hp : p ∈ [(Texel.b, Colour.b), (Texel.g, Colour.g), (Texel.r, Colour.r)]) :
    (∀ ts, p.2 (endpoint0 ts) = clamp (average p.1 ts + deviation p.1 ts)) ∧
      (∀ ts, p.2 (endpoint1 ts) = clamp (average p.1 ts - deviation p.1 ts)) ∧
      ∀ x : Texel, x.b ≤ 255 ∧ x.g ≤ 255 ∧ x.r ≤ 255 → p.1 x ≤ 255 := by
  simp only [List.mem_cons, List.not_mem_nil, or_false] at hp
  rcases hp with rfl | rfl | rfl
  · exact ⟨fun _ => rfl, fun _ => rfl, fun _ ⟨hb, _, _⟩ => hb⟩
  · exact ⟨fun _ => rfl, fun _ => rfl, fun _ ⟨_, hg, _⟩ => hg⟩
  · exact ⟨fun _ => rfl, fun _ => rfl, fun _ ⟨_, _, hr⟩ => hr⟩

/-! ## The packed colours (R115, R116) -/

/-- The three packed fields do not overlap, so joining them is adding them (R115). -/
theorem pack565_eq {e : Colour} (he : e.InRange) : pack565 e = e.r / 8 * 2048 + e.g / 4 * 32 + e.b / 8 := by
  obtain ⟨hb, hg, _⟩ := he
  have hgreen : e.g / 4 < 2 ^ 6 := by omega
  have hblue : e.b / 8 < 2 ^ 5 := by omega
  calc pack565 e = ((e.r / 8) <<< 6 ||| e.g / 4) <<< 5 ||| e.b / 8 := by
        rw [pack565, Nat.shiftLeft_or_distrib, ← Nat.shiftLeft_add]
    _ = ((e.r / 8) <<< 6 + e.g / 4) <<< 5 + e.b / 8 := by
        rw [← Nat.shiftLeft_add_eq_or_of_lt hgreen, ← Nat.shiftLeft_add_eq_or_of_lt hblue]
    _ = e.r / 8 * 2048 + e.g / 4 * 32 + e.b / 8 := by
        simp only [Nat.shiftLeft_eq]; omega

theorem pack565_lt {e : Colour} (he : e.InRange) : pack565 e < 65536 := by
  rw [pack565_eq he]
  obtain ⟨hb, hg, hr⟩ := he
  omega

theorem endpoint0_inRange (ts : List Texel) : (endpoint0 ts).InRange :=
  ⟨clamp_le _, clamp_le _, clamp_le _⟩

theorem endpoint1_inRange (ts : List Texel) : (endpoint1 ts).InRange :=
  ⟨clamp_le _, clamp_le _, clamp_le _⟩

theorem blockColour1_le (ts : List Texel) : blockColour1 ts ≤ blockColour0 ts := min_le_max

theorem blockColour0_lt (ts : List Texel) : blockColour0 ts < 65536 :=
  max_lt (pack565_lt (endpoint0_inRange ts)) (pack565_lt (endpoint1_inRange ts))

/-! ## The distance (R118) -/

/-- Bit by bit from the top, the root stays at most `sqrt n` while what is still to be decided reaches above it. -/
theorem isqrtBits_eq_sqrt {k n r : Nat} (hlo : r * r ≤ n) (hhi : n < (r + 2 ^ k) * (r + 2 ^ k)) :
    isqrtBits k n r = n.sqrt := by
  induction k generalizing r with
  | zero => exact Nat.eq_sqrt.mpr ⟨hlo, hhi⟩
  | succ k ih =>
    rw [isqrtBits]
    split
    · next hbit => exact ih hbit (by rwa [Nat.add_assoc, ← Nat.two_mul, ← Nat.pow_succ'])
    · next hbit => exact ih hlo (Nat.not_le.mp hbit)

/-- The model's integer square root is the library's. -/
theorem isqrt_eq_sqrt (n : Nat) : isqrt n = n.sqrt := by
  refine isqrtBits_eq_sqrt (Nat.zero_le n) ?_
  calc n < 2 ^ (n.log2 + 1) := Nat.lt_log2_self
    _ ≤ 2 ^ ((n.log2 / 2 + 1) + (n.log2 / 2 + 1)) := Nat.pow_le_pow_right (by decide) (by omega)
    _ = (0 + 2 ^ (n.log2 / 2 + 1)) * (0 + 2 ^ (n.log2 / 2 + 1)) := by rw [Nat.pow_add, Nat.zero_add]

theorem colourDist_eq_sqrt (t p : Texel) : colourDist t p = (100000000 * squaredDist t p).sqrt := isqrt_eq_sqrt _

theorem coe_squaredDiff (x y : Nat) : (squaredDiff x y : Int) = ((x : Int) - y) ^ 2 := by
  rw [squaredDiff, Nat.cast_mul, Int.natAbs_mul_self', pow_two]

theorem coe_squaredDist (t p : Texel) :
    (squaredDist t p : Int) = ((t.b : Int) - p.b) ^ 2 + ((t.g : Int) - p.g) ^ 2 + ((t.r : Int) - p.r) ^ 2 := by
  simp only [squaredDist, Nat.cast_add, coe_squaredDiff]

theorem squaredDiff_le {x y : Nat} (hx : x ≤ 255) (hy : y ≤ 255) : squaredDiff x y ≤ 255 * 255 :=
  Nat.mul_le_mul (by omega) (by omega)

/-- The greatest squared distance is that of black and white (R118). -/
theorem squaredDist_le {t p : Texel} (ht : t.b ≤ 255 ∧ t.g ≤ 255 ∧ t.r ≤ 255) (hp : p.b ≤ 255 ∧ p.g ≤ 255 ∧ p.r ≤ 255) :
    squaredDist t p ≤ 195075 := by
  obtain ⟨htb, htg, htr⟩ := ht
  obtain ⟨hpb, hpg, hpr⟩ := hp
  exact Nat.add_le_add (Nat.add_le_add (squaredDiff_le htb hpb) (squaredDiff_le htg hpg)) (squaredDiff_le htr hpr)

/-- One step of `c` under the root passes the next square as long as the root is less than half of `c`. -/
theorem sqrt_mul_lt_sqrt_mul {c x y : Nat} (hroot : 2 * (c * x).sqrt < c) (hxy : x < y) :
    (c * x).sqrt < (c * y).sqrt := by
  have hsq : (c * x).sqrt * (c * x).sqrt ≤ c * x := Nat.sqrt_le _
  refine Nat.le_sqrt.mpr ?_
  calc ((c * x).sqrt + 1) * ((c * x).sqrt + 1) = (c * x).sqrt * (c * x).sqrt + (2 * (c * x).sqrt + 1) := by ring
    _ ≤ c * x + c := Nat.add_le_add hsq hroot
    _ = c * (x + 1) := (Nat.mul_succ c x).symm
    _ ≤ c * y := Nat.mul_le_mul_left c hxy

/-- On the squared distances of two colours the scaled root is strictly increasing (R118). -/
theorem strictMonoOn_scaledRoot : StrictMonoOn (fun x => (100000000 * x).sqrt) (Set.Iic 195075) := by
  intro x hx y _ hxy
  have hroot : (100000000 * x).sqrt < 50000000 := Nat.sqrt_lt.mpr (by have : x ≤ 195075 := hx; omega)
  exact sqrt_mul_lt_sqrt_mul (by omega) hxy

/-! ## The selected index (R119) -/

/-- Of the indices from `lo` up to but not with `hi`, `i` is the first with the least distance. -/
structure FirstLeast (d : Nat → Nat) (lo hi i : Nat) : Prop where
  notBelow : lo ≤ i
  below : i < hi
  least : ∀ k, lo ≤ k → k < hi → d i ≤ d k
  lowest : ∀ k, lo ≤ k → k < i → d i < d k

/-- One comparison of R119: the second index wins only with a strictly smaller distance. -/
def closerIndex (d : Nat → Nat) (i j : Nat) : Nat := if d j < d i then j else i

/-- R119 is three such comparisons: two pairs, then the two winners. -/
theorem selectIndex_eq (d : Nat → Nat) :
    selectIndex d = closerIndex d (closerIndex d 0 1) (closerIndex d 2 3) := rfl

theorem firstLeast_single (d : Nat → Nat) (i : Nat) : FirstLeast d i (i + 1) i where
  notBelow := le_rfl
  below := Nat.lt_succ_self i
  least k hlo hhi := by rw [show k = i by omega]
  lowest k hlo hhi := by omega

/-- The winner of two adjacent ranges' winners is the winner of both ranges. -/
theorem FirstLeast.closer {d : Nat → Nat} {lo mid hi i j : Nat} (hi₁ : FirstLeast d lo mid i)
    (hj : FirstLeast d mid hi j) : FirstLeast d lo hi (closerIndex d i j) := by
  have hi_lo := hi₁.notBelow
  have hi_mid := hi₁.below
  have hj_mid := hj.notBelow
  have hj_hi := hj.below
  unfold closerIndex
  split
  · next hlt =>
    refine ⟨by omega, hj_hi, fun k hlo hhi => ?_, fun k hlo hhi => ?_⟩
    · rcases Nat.lt_or_ge k mid with hk | hk
      · exact (hlt.trans_le (hi₁.least k hlo hk)).le
      · exact hj.least k hk hhi
    · rcases Nat.lt_or_ge k mid with hk | hk
      · exact hlt.trans_le (hi₁.least k hlo hk)
      · exact hj.lowest k hk hhi
  · next hge =>
    refine ⟨hi_lo, by omega, fun k hlo hhi => ?_, hi₁.lowest⟩
    rcases Nat.lt_or_ge k mid with hk | hk
    · exact hi₁.least k hlo hk
    · exact (Nat.not_lt.mp hge).trans (hj.least k hk hhi)

theorem selectIndex_firstLeast (d : Nat → Nat) : FirstLeast d 0 4 (selectIndex d) := by
  rw [selectIndex_eq]
  have hpair01 : FirstLeast d 0 2 (closerIndex d 0 1) := (firstLeast_single d 0).closer (firstLeast_single d 1)
  have hpair23 : FirstLeast d 2 4 (closerIndex d 2 3) := (firstLeast_single d 2).closer (firstLeast_single d 3)
  exact hpair01.closer hpair23

/-! ## The fields of an encoded block (R110, R121) -/

theorem alphaNibble_lt {a : Nat} (ha : a ≤ 255) : alphaNibble a < 2 ^ 4 := by
  unfold alphaNibble; omega

theorem texelIndexBits_lt (c0 c1 : Nat) (t : Texel) : texelIndexBits c0 c1 t < 2 ^ 2 := by
  unfold texelIndexBits
  split
  · decide
  · exact (selectIndex_firstLeast _).below

/-- The index word of a block (R121). -/
def indexWord (c0 c1 : Nat) (ts : List Texel) : Nat := packFields 2 (ts.map (texelIndexBits c0 c1))

/-- A block is a record of four little-endian fields (R121). -/
theorem blockBytes_eq_fieldBytes (ts : List Texel) (c0 c1 : Nat) :
    blockBytes ts c0 c1 = fieldBytes [(8, alphaWord ts), (2, c0), (2, c1), (4, indexWord c0 c1 ts)] := by
  simp [blockBytes, fieldBytes, indexWord]

theorem nibbles_lt {ts : List Texel} (h : ∀ x ∈ ts, x.InRange) : ∀ v ∈ ts.map fun t => alphaNibble t.a, v < 2 ^ 4 :=
  List.forall_mem_map.mpr fun x hx =>
    have ⟨_, _, _, ha⟩ := h x hx
    alphaNibble_lt ha

theorem indices_lt (c0 c1 : Nat) (ts : List Texel) : ∀ v ∈ ts.map (texelIndexBits c0 c1), v < 2 ^ 2 :=
  List.forall_mem_map.mpr fun x _ => texelIndexBits_lt c0 c1 x

/-- 16 nibbles fill the 8 bytes of the alpha word (R110). -/
theorem alphaWord_lt {ts : List Texel} (hlen : ts.length = 16) (h : ∀ x ∈ ts, x.InRange) : alphaWord ts < 256 ^ 8 := by
  simpa [alphaWord, hlen] using packFields_lt (nibbles_lt h)

/-- 16 indices of two bits fill the 4 bytes of the index word (R121). -/
theorem indexWord_lt {ts : List Texel} (hlen : ts.length = 16) (c0 c1 : Nat) : indexWord c0 c1 ts < 256 ^ 4 := by
  simpa [indexWord, hlen] using packFields_lt (indices_lt c0 c1 ts)

theorem alphaWord_field {ts : List Texel} (h : ∀ x ∈ ts, x.InRange) {k : Nat} {x : Texel} (hx : ts[k]? = some x) :
    alphaWord ts / 16 ^ k % 16 = (x.a + 8) / 17 :=
  packFields_field (nibbles_lt h) (by rw [List.getElem?_map, hx]; rfl)

theorem indexWord_field (c0 c1 : Nat) {ts : List Texel} {k : Nat} {x : Texel} (hx : ts[k]? = some x) :
    indexWord c0 c1 ts / 4 ^ k % 4 = texelIndexBits c0 c1 x :=
  packFields_field (indices_lt c0 c1 ts) (by rw [List.getElem?_map, hx]; rfl)

/-- The four fields read back from memory that holds an encoded block from `a` up (R7, R121). -/
theorem memRead_encodedBlock {m : Memory} {a : Nat} {ts : List Texel} (hlen : ts.length = 16)
    (hrange : ∀ x ∈ ts, x.InRange) (h : ∀ j b, (encodeBlock ts)[j]? = some b → m.read (a + j) = b) :
    m.memRead a 8 = alphaWord ts ∧ m.memRead (a + 8) 2 = blockColour0 ts ∧ m.memRead (a + 10) 2 = blockColour1 ts ∧
      m.memRead (a + 12) 4 = indexWord (blockColour0 ts) (blockColour1 ts) ts := by
  rw [encodeBlock, blockBytes_eq_fieldBytes, ← List.append_nil (fieldBytes _)] at h
  have hc0 := blockColour0_lt ts
  have hc1 := (blockColour1_le ts).trans_lt hc0
  exact ⟨Memory.memRead_field h 0 (off := 0) rfl (alphaWord_lt hlen hrange) rfl, Memory.memRead_field h 1 rfl hc0 rfl,
    Memory.memRead_field h 2 rfl hc1 rfl, Memory.memRead_field h 3 rfl (indexWord_lt hlen _ _) rfl⟩

/-- `exec_ready` for the encoder: block `b` stands at `L.DST_ADDR + 16 b` (R121, R122). -/
theorem exec_ready_encDxt3 {s : State} {l : Latched} (hl : s.latchFor .encDxt3 = l)
    (hr : Ready (4 * l.N) l.N l s.memSize) :
    ∃ t, exec .encDxt3 s = .next t ∧ Completed l.dst l.N (s.start .encDxt3) t ∧
      ∀ b < l.NB, ∀ j x, (encodeBlock (gather l s.mem b))[j]? = some x → t.mem.read (l.dst + 16 * b + j) = x := by
  subst hl
  obtain ⟨t, ht, hdone, hread⟩ := exec_ready (i := .encDxt3) rfl hr
  refine ⟨t, ht, hdone, fun b hb j x hj => ?_⟩
  have hj16 : j < 16 := by simpa using (List.getElem?_eq_some_iff.mp hj).1
  rw [Nat.add_assoc]
  exact hread _ _ ((rasterBytes_getElem? _ (fun _ _ => encodeBlock_length _) hb hj16).trans hj)

/-! ## The obligations -/

/-- Settles O40: every block stands in memory as its four fields, and field `k` of the alpha word and of the index word
is that of texel `k`. -/
theorem encDxt3Result : Obligations.EncDxt3Result := by
  intro s l hl hr
  obtain ⟨t, ht, hdone, hblocks⟩ := exec_ready_encDxt3 hl hr
  refine ⟨t, ht, hdone, ?_⟩
  rintro b hb ts c0 c1 rfl hc0 hc1
  obtain rfl : blockColour0 (gather l s.mem b) = c0 := hc0.symm
  obtain rfl : blockColour1 (gather l s.mem b) = c1 := hc1.symm
  have hrange : ∀ x ∈ gather l s.mem b, x.InRange := fun _ => gather_inRange
  obtain ⟨halpha, hcolour0, hcolour1, hindex⟩ := memRead_encodedBlock (gather_length l s.mem b) hrange (hblocks b hb)
  refine ⟨hcolour0, hcolour1, fun k _ x hx => ⟨?_, ?_⟩⟩
  · rw [halpha]
    exact alphaWord_field hrange hx
  · rw [hindex]
    exact indexWord_field _ _ hx

/-- Settles O42: the formulas are the model's; the bounds follow from those of the components, since an average keeps
to their range. -/
theorem endpointFormulas : Obligations.EndpointFormulas := by
  rintro ts hlen hrange _ rfl
  refine ⟨signedSum_red (average Texel.r ts) ts, deviation_red_nonneg ts, ?_⟩
  rintro p hp _ _ _ rfl rfl rfl
  obtain ⟨hplus, hminus, hchannel⟩ := endpoints_channel hp
  have hcomponents : ∀ x ∈ ts, p.1 x ≤ 255 := fun x hx => hchannel x (hrange x hx)
  have havg : average p.1 ts ≤ 255 := average_le hlen hcomponents
  have hsum : |signedSum p.1 (average p.1 ts) (average Texel.r ts) ts| ≤ 16 * 255 := by
    simpa [hlen] using abs_signedSum_le (average Texel.r ts) hcomponents havg
  refine ⟨rfl, havg, hsum, rfl, abs_tdiv_eight_tdiv_three_le hsum, ?_, ?_⟩
  · rw [hplus]
    exact coe_clamp _
  · rw [hminus]
    exact coe_clamp _

/-- Settles O43: two ordered colours that differ are strictly ordered, which is what a DXT1 decoder tests. -/
theorem encodedColoursOrdered : Obligations.EncodedColoursOrdered := by
  refine ⟨fun e hb hg hr => pack565_eq ⟨hb, hg, hr⟩, fun ts => ⟨blockColour1_le ts, blockColour0_lt ts, fun hne => ?_⟩⟩
  exact colourPalette_four (.inr (lt_of_le_of_ne (blockColour1_le ts) hne.symm))

/-- Settles O45: the distance is the root of the scaled squared distance, which is strictly increasing up to
`3 * 255^2`. -/
theorem distanceComparesAsSquares : Obligations.DistanceComparesAsSquares := by
  rintro t p q _ _ hrange rfl rfl
  have ht := hrange t (by simp)
  have hx : squaredDist t p ∈ Set.Iic 195075 := squaredDist_le ht (hrange p (by simp))
  have hy : squaredDist t q ∈ Set.Iic 195075 := squaredDist_le ht (hrange q (by simp))
  simp only [← coe_squaredDist, colourDist_eq_sqrt, Nat.cast_lt, Nat.cast_inj]
  refine ⟨?_, ?_, strictMonoOn_scaledRoot.lt_iff_lt hx hy, strictMonoOn_scaledRoot.eq_iff_eq hx hy⟩
  · exact_mod_cast Nat.sqrt_le' (100000000 * squaredDist t p)
  · exact_mod_cast Nat.lt_succ_sqrt' (100000000 * squaredDist t p)

/-- Settles O41. -/
theorem gatherReadsBlock : Obligations.GatherReadsBlock := by
  refine fun l m b => ⟨gather_length l m b, ?_⟩
  rintro k hk _ rfl
  exact gather_getElem? l m b hk

/-- Settles O46: the selected index is the first least of `0 .. 3`. -/
theorem selectedIndexLeastAndLowest : Obligations.SelectedIndexLeastAndLowest := by
  intro d
  obtain ⟨_, hbelow, hleast, hfirst⟩ := selectIndex_firstLeast d
  exact ⟨Nat.le_of_lt_succ hbelow, fun k hk => hleast k (Nat.zero_le k) (Nat.lt_succ_of_le hk),
    fun k hk => hfirst k (Nat.zero_le k) hk⟩

end Sys2Proof.Machine
end

section
/-! SUPPORT. What a supported EMIT leaves in its output region: its bytes as one record of fields followed by the payload,
the fields that are written as 0 (R129, R133), read singly or as a run, and the payload (R134). -/

namespace Sys2Proof.Machine

/-! ## The fields written as 0 (R129, R133) -/

theorem leBytes_zero (n : Nat) : leBytes n 0 = List.replicate n 0 := by
  induction n with
  | zero => rfl
  | succ n ih => rw [leBytes, List.replicate_succ, Nat.zero_div, ih]; rfl

/-- Fields that all hold 0 are the bytes of one field that holds 0, as wide as they are together. -/
theorem fieldBytes_of_zeros {fs : List (Nat × Nat)} (h : ∀ f ∈ fs, f.2 = 0) :
    fieldBytes fs = leBytes (fs.map Prod.fst).sum 0 := by
  induction fs with
  | nil => rfl
  | cons f fs ih =>
    obtain ⟨hf, hfs⟩ := List.forall_mem_cons.mp h
    calc fieldBytes (f :: fs)
        = leBytes f.1 f.2 ++ fieldBytes fs := by simp [fieldBytes]
      _ = leBytes (f.1 + (fs.map Prod.fst).sum) 0 := by
        rw [hf, ih hfs, leBytes_zero, leBytes_zero, leBytes_zero, List.replicate_append_replicate]
      _ = leBytes ((f :: fs).map Prod.fst).sum 0 := by rw [List.map_cons, List.sum_cons]

/-- One read of `j` adjacent fields from field `k` on gives 0 when each of them holds 0 (R7, R42). -/
theorem Memory.memRead_zeroFields {m : Memory} {dst : Nat} {fs : List (Nat × Nat)} {rest : List Byte}
    (h : ∀ k b, (fieldBytes fs ++ rest)[k]? = some b → m.read (dst + k) = b) (k j : Nat) {n off : Nat}
    (hz : ∀ f ∈ (fs.drop k).take j, f.2 = 0) (hn : n = (((fs.drop k).take j).map Prod.fst).sum)
    (ho : off = ((fs.take k).map Prod.fst).sum) : m.memRead (dst + off) n = 0 := by
  refine m.memRead_of_segment h (pre := fieldBytes (fs.take k)) (post := fieldBytes ((fs.drop k).drop j) ++ rest)
    (Nat.pow_pos (by omega)) ?_ (ho.trans (fieldBytes_length _).symm)
  rw [hn, ← fieldBytes_of_zeros hz, ← List.append_assoc, ← fieldBytes_append, ← fieldBytes_append, List.append_assoc,
    List.take_append_drop, List.take_append_drop]

/-- The reserved field at offset 6, and the four fields from offset 38 on read as one: the resolution hints, the palette
count and the reserved field (R126, R127, R129). -/
theorem baseHeader_zeros_of_fields {m : Memory} {a hdr w h d c raw : Nat} {gs : List (Nat × Nat)} {rest : List Byte}
    (hm : ∀ k b, (fieldBytes (baseFields hdr w h d c raw ++ gs) ++ rest)[k]? = some b → m.read (a + k) = b) :
    m.memRead (a + 6) 4 = 0 ∧ m.memRead (a + 38) 16 = 0 :=
  ⟨m.memRead_zeroFields hm 3 1 (by simp [baseFields]) rfl rfl, m.memRead_zeroFields hm 12 4 (by simp [baseFields]) rfl rfl⟩

/-- The reserved byte of the extension record, and its last three fields read as one: the reserved field, the mip count
and the reserved field (R133). -/
theorem extension_zeros_of_fields {m : Memory} {a hdr w h d c raw magic : Nat} {rest : List Byte}
    (hm : ∀ k b, (fieldBytes (baseFields hdr w h d c raw ++ extensionFields magic) ++ rest)[k]? = some b →
      m.read (a + k) = b) : m.memRead (a + 62) 1 = 0 ∧ m.memRead (a + 64) 10 = 0 :=
  ⟨m.memRead_zeroFields hm 18 1 (by simp [baseFields, extensionFields]) (by simp [baseFields, extensionFields])
      (by simp [baseFields, extensionFields]),
    m.memRead_zeroFields hm 20 3 (by simp [baseFields, extensionFields]) (by simp [baseFields, extensionFields])
      (by simp [baseFields, extensionFields])⟩

/-! ## The payload after the header (R134) -/

/-- Memory that holds a record of fields and then the payload holds byte `k` of the input region `k` bytes after the
record. -/
theorem read_payload_of_fields {m m₀ : Memory} {a off n k : Nat} {l : Latched} {fs : List (Nat × Nat)}
    (hm : ∀ k b, (fieldBytes fs ++ payload l m₀ n)[k]? = some b → m.read (a + k) = b) (hoff : off = (fs.map Prod.fst).sum)
    (hk : k < n) : m.read (a + off + k) = m₀.read (l.src + k) := by
  rw [Nat.add_assoc]
  apply hm
  rw [hoff, ← fieldBytes_length, List.getElem?_append_right (Nat.le_add_right _ _), Nat.add_sub_cancel_left]
  exact m₀.bytes_getElem?_of_lt _ hk

/-! ## The two shapes of an output (R135 to R137) -/

/-- EMIT.STD24 writes the base header and the payload (R135). -/
theorem emitStd24_perform (l : Latched) (q : Params) (m : Memory) :
    performOf .emitStd24 l q m =
      fieldBytes (baseFields 54 l.W l.H 24 0 (3 * l.N) ++ []) ++ payload l m (3 * l.N) := by
  rw [List.append_nil, ← baseHeader_eq]
  rfl

/-- EMIT.FS32 and EMIT.DXT3, each with the bytes of a texel and whether it has a compression tag: both write the base
header, the extension record and the payload (R74, R136, R137). -/
theorem emitTagged_perform {p : Instr × Nat × Nat} (hp : p ∈ [(Instr.emitFs32, 4, 0), (.emitDxt3, 1, 1)]) :
    checkCommand p.1 = none ∧ p.2.2 ≤ 1 ∧ (∀ n, needOf p.1 n = p.2.1 * n) ∧ (∀ n, outOf p.1 n = 74 + p.2.1 * n) ∧
      ∀ l q m, performOf p.1 l q m =
        fieldBytes (baseFields 74 l.W l.H 32 (p.2.2 * q.fourccDxt3.toNat) (p.2.1 * l.N) ++
          extensionFields q.fsMagic.toNat) ++ payload l m (p.2.1 * l.N) := by
  simp only [List.mem_cons, List.not_mem_nil, or_false] at hp
  rcases hp with rfl | rfl
  · refine ⟨rfl, Nat.zero_le 1, fun _ => rfl, fun _ => rfl, fun l q m => ?_⟩
    rw [fieldBytes_append, ← baseHeader_eq, ← extensionRecord_eq, Nat.zero_mul]
    rfl
  · simp only [Nat.one_mul]
    refine ⟨rfl, Nat.le_refl 1, fun _ => rfl, fun _ => rfl, fun l q m => ?_⟩
    rw [fieldBytes_append, ← baseHeader_eq, ← extensionRecord_eq]
    rfl

/-! ## The obligations -/

/-- Settles O47: the output is the base header and the payload. Every field fits in its width, the declared size because
the output fits in the 32-bit `L.DST_CAP`. -/
theorem emitStd24Result : Obligations.EmitStd24Result := by
  rintro s l rfl hr
  obtain ⟨t, ht, hdone, hread⟩ := exec_ready (i := .emitStd24) rfl hr
  rw [emitStd24_perform] at hread
  have hsize := hr.roomEnough.trans_lt (s.latchFor .emitStd24).dstCap.isLt
  have b := baseHeader_of_fields hread hsize (BitVec.isLt _) (BitVec.isLt _) (by omega) (by omega)
  obtain ⟨hreserved, hzeros⟩ := baseHeader_zeros_of_fields hread
  exact ⟨t, ht, hdone, b.signature1, b.signature2, b.declared, hreserved, b.dataOffset, b.headerSize, b.width, b.height,
    b.planes, b.depth, b.compression, b.rawBytes, hzeros, fun k hk => read_payload_of_fields hread rfl hk⟩

/-- Settles O48: both outputs are the base header, the extension record and the payload. The two parameters are 32-bit
words, so they fit in their fields whatever they hold. -/
theorem emitTaggedResult : Obligations.EmitTaggedResult := by
  rintro p hp s l raw rfl rfl hr
  obtain ⟨hcheck, hflag, hneed, hout, hperform⟩ := emitTagged_perform hp
  obtain ⟨t, ht, hdone, hread⟩ := exec_ready hcheck (by rwa [hneed, hout])
  rw [hout] at hdone
  rw [hperform] at hread
  have hsize := hr.roomEnough.trans_lt (s.latchFor p.1).dstCap.isLt
  have htag : p.2.2 * s.params.fourccDxt3.toNat < 2 ^ 32 :=
    (mul_le_of_le_one_left (Nat.zero_le _) hflag).trans_lt s.params.fourccDxt3.isLt
  have b := baseHeader_of_fields hread hsize (BitVec.isLt _) (BitVec.isLt _) (by omega) htag
  have e := extension_of_fields hread s.params.fsMagic.isLt
  obtain ⟨hreserved, hzeros⟩ := baseHeader_zeros_of_fields hread
  obtain ⟨hreserved', hzeros'⟩ := extension_zeros_of_fields hread
  exact ⟨t, ht, hdone, b.signature1, b.signature2, b.declared, hreserved, b.dataOffset, b.headerSize, b.width, b.height,
    b.planes, b.depth, b.compression, b.rawBytes, hzeros, e.magic, e.version, hreserved', e.subType, hzeros',
    fun k hk => read_payload_of_fields hread (by simp [baseFields, extensionFields]) hk⟩

end Sys2Proof.Machine
end

section
/-! SUPPORT. What the host reads from `STATUS` after an error completion (R27, R146), and the illegal word's error
completion with its `DST_LEN` (R33, R61). -/

namespace Sys2Proof.Machine

/-! ## The outcome of a failed command, read through `STATUS` (R146) -/

/-- Whatever state a command failed in, without a dropped write `STATUS` reads `DONE`, `ERR` and the code. -/
theorem Failed.statusWord {e : CmdError} {b t : State} (h : Failed e b t) (hdrop : b.drop = false) :
    t.statusWord.toNat = 6 + 256 * e.code.toNat := by
  have hbusy : t.busy = false := State.busy_idle h.idle
  rw [State.statusWord_toNat, hbusy, h.done, h.err, h.drop, hdrop, h.errCode]
  rfl

/-- An illegal word fails like any other command: with the frame of `Failed` and, under the invariant, with `DST_LEN` 0
(R33, R61). -/
theorem engineTurn_illegal_fails {s : State} {l : Latched} {r : DecodeReject} (hp : s.phase = .busy l)
    (hd : decode l.cmd = .error r) :
    ∃ t, engineTurn s = .next t ∧ Failed .illegalCommand s t ∧ (Inv s → t.dstLen = 0) :=
  have hfailed := failWith_failed .illegalCommand s
  ⟨_, engineTurn_illegal hp hd, hfailed, fun hinv => hfailed.dstLen.trans (hinv.busyClear (State.busy_busy hp)).2⟩

/-! ## The obligation -/

/-- Settles O22: an illegal word and a condition of `Check` both end in `Failed`, which fixes `STATUS`. -/
theorem failedCommandIsPrecise : Obligations.FailedCommandIsPrecise := by
  constructor
  · intro s l r hp hd
    obtain ⟨t, ht, hfailed, hlen⟩ := engineTurn_illegal_fails hp hd
    exact ⟨t, ht, hfailed, hlen, fun hdrop => BitVec.eq_of_toNat_eq (hfailed.statusWord hdrop)⟩
  · intro i s e hcheck
    obtain ⟨t, ht, hfailed, hlen⟩ := exec_fails hcheck
    exact ⟨t, ht, hfailed, hlen, hfailed.statusWord⟩

end Sys2Proof.Machine
end

section
/-! SUPPORT. Which accesses of the register window are refused (R15, R169), and each byte of memory after a reset that
abandons a command (R157). -/

namespace Sys2Proof.Machine

/-! ## The refused accesses of the register window (R15, R169) -/

theorem hostLine_regWrite_refused {size off : Nat} (h : ¬ regAccessOk size off = true) (v : Word) (s : State) :
    hostLine (.regWrite size off v) s = .refused .undefinedRegisterAccess := if_neg h

theorem hostLine_regRead_refused {size off : Nat} (h : ¬ regAccessOk size off = true) (s : State) :
    hostLine (.regRead size off) s = .refused .undefinedRegisterAccess := if_neg h

/-- Inside the window, only the size and the alignment of an access can make it undefined (R15). -/
theorem not_regAccessOk_iff {size off : Nat} (hoff : off < 256) :
    ¬ regAccessOk size off = true ↔ size ≠ 4 ∨ off % 4 ≠ 0 := by
  rw [regAccessOk_iff]
  omega

/-! ## The output region of an abandoned command (R157) -/

/-- A byte of the region holds its value before or its final value, as the free draw falls. -/
theorem State.byte?_memAfterReset_region {s : State} {dst out a : Nat} (h : s.runningOutput = some (dst, out))
    (ha : dst ≤ a ∧ a < dst + out) :
    s.memAfterReset.byte? a = s.mem.byte? a ∨ s.memAfterReset.byte? a = some (s.finalMem.read a) := by
  have hbyte : s.memAfterReset.byte? a =
      if Config.raceDraw (s.draws + (a - dst)) then s.mem.byte? a else some (s.finalMem.read a) := by
    rw [memAfterReset_byte?, h]
    exact if_pos ha
  cases hdraw : Config.raceDraw (s.draws + (a - dst)) with
  | true => exact .inl (hbyte.trans (if_pos hdraw))
  | false => exact .inr (hbyte.trans (if_neg (by simp [hdraw])))

/-- A byte outside the region keeps its value. -/
theorem State.byte?_memAfterReset_outside_region {s : State} {dst out a : Nat}
    (h : s.runningOutput = some (dst, out)) (ha : ¬ (dst ≤ a ∧ a < dst + out)) :
    s.memAfterReset.byte? a = s.mem.byte? a := by
  rw [memAfterReset_byte?, h]
  exact if_neg ha

/-! ## The obligations -/

/-- Settles O19: the registers are those of the reset state, and the final value of a byte is the one the engine's turn
leaves, whose memory is `finalMem`. -/
theorem resetWhileBusy : Obligations.ResetWhileBusy := by
  intro s l _
  obtain ⟨u, hu, hfinal⟩ := engineTurn_next s
  refine ⟨_, u, hostLine_reset s, hu, fun r h₁ h₂ => State.readReg_resetKeeping _ _ _ h₁ h₂, rfl, rfl,
    fun a hnone => ?_, fun dst out a hsome => ⟨fun ha => ?_, fun ha => ?_⟩⟩
  · exact congrArg (Memory.byte? · a) (State.memAfterReset_of_none hnone)
  · rw [hfinal]
    exact State.byte?_memAfterReset_region hsome ha
  · exact State.byte?_memAfterReset_outside_region hsome ha

/-- Settles O12: inside the window an access is undefined by its size or its alignment, and a defined one completes. -/
theorem undefinedRegisterAccessRefused : Obligations.UndefinedRegisterAccessRefused := by
  intro s size off v hoff
  constructor
  · intro hbad
    have hundefined := (not_regAccessOk_iff hoff).mpr hbad
    exact ⟨hostLine_regWrite_refused hundefined v s, hostLine_regRead_refused hundefined s⟩
  · rintro ⟨hsize, halign⟩
    have hdefined := (regAccessOk_iff size off).mpr ⟨hsize, halign, hoff⟩
    exact ⟨⟨_, hostLine_regWrite hdefined v s⟩, ⟨_, hostLine_regRead hdefined s⟩⟩

end Sys2Proof.Machine
end
